-- ==== Sys2Proof/Word.lean ====
section
/-! DEFINITION. Word.lean: the word types of SDCTL. Registers, arguments and block addresses are 32 bits (00 R10),
memory and the data stream are bytes (20 R80). -/

namespace Sys2Proof

/-- A 32-bit register, argument or operand (00 R10, 20 R86). -/
abbrev Word := BitVec 32

/-- One byte of system memory or of the data stream (20 R80, R85). -/
abbrev Byte := BitVec 8

end Sys2Proof
end

