-- ==== Sys2Proof/Syntax.lean ====
section
/-! DEFINITION. Syntax.lean: the instructions of SDCTL, one constructor per row of spec/opcode_table.json, and the operand
types they take. -/

namespace Sys2Proof

/-- A controller (10 R38): the operand of `SD_Initialize_LL`, SDMMC1 in position 0 and SDMMC2 in position 1 (30 R135). -/
inductive Sdmmc where
  | sdmmc1
  | sdmmc2
  deriving DecidableEq, Repr

/-- The bus widths of ACMD6 and of `P_BUS_WIDTH` (00 R9, 30 R106). -/
inductive BusWidth where
  | w1
  | w4
  deriving DecidableEq, Repr, Inhabited

/-- The operand of `wideBusOperationConfig` (30 R130): W1, W4, W8 in positions 0, 1, 2. -/
inductive BusMode where
  | w1
  | w4
  | w8
  deriving DecidableEq, Repr

/-- The block lengths CMD16 is sent with (30 R106), in the order the rule lists them. -/
inductive BlockLen where
  | b512
  | b8
  | b64
  deriving DecidableEq, Repr

/-- The argument of CMD55 (30 R110): none in `powerOn`, RCAARG elsewhere. -/
inductive AppArg where
  | none
  | rcaArg
  deriving DecidableEq, Repr

/-- The instructions: the SD commands of 30 R110, the host operations, internal procedures and interrupt entries of 30 R130, and
the two pure functions of 40 R177 and R180. -/
inductive Instr where
  | cmd0
  | cmd2
  | cmd3
  | cmd7
  | cmd8
  | cmd9
  | cmd12
  | cmd13
  | cmd16 (len : BlockLen)
  | cmd17 (block : Word)
  | cmd18 (block : Word)
  | cmd24 (block : Word)
  | cmd25 (block : Word)
  | cmd55 (arg : AppArg)
  | acmd6 (width : BusWidth)
  | acmd13
  | acmd41
  | acmd51
  | sdInitializeLL (sel : Sdmmc)
  | sdInit (clockDivider : Word)
  | sdReadBlocksDMA (address buffer blockSize numBlocks : Word)
  | sdWriteBlocksDMA (address buffer blockSize numBlocks : Word)
  | sdCheckRead
  | sdCheckWrite
  | sdGetCardInfo
  | sdGetStatus
  | sdGetCardStatus (out : Word)
  | sdIsDetected
  | sdAbort
  | transmitCommand (command argument responseType : Word)
  | classify (command responseType : Word)
  | powerOn
  | initializeCard
  | decodeCSD
  | decodeCID
  | findSCR
  | wideBusOperationConfig (mode : BusMode)
  | sendSDStatus
  | sdmmc1IRQHandler
  | sdmmc2IRQHandler
  | decodeCardStatus (r : Word)
  | decodeR6 (r : Word)
  deriving DecidableEq, Repr

/-- An encoded instruction, its bytes lowest address first: a host call (selector byte, then operands as 32-bit little-endian
words, 30 R135) or an SD command (the `CMDR` word of 30 R100, then its operand word if it has one). -/
inductive Code where
  | call (bytes : List Byte)
  | command (bytes : List Byte)
  deriving DecidableEq, Repr

end Sys2Proof
end

