-- ==== Sys2Proof/WellFormed.lean ====
section
/-! DEFINITION. WellFormed.lean: the operand ranges of 30 R130 that the operand types do not already give. A call with an
operand outside its range is refused (30 R131). -/

namespace Sys2Proof

/-- `command: u6` (30 R130). -/
def commandInRange (command : Word) : Bool := decide (command.toNat < 64)

/-- `clockDivider: u10` (30 R130, 41 R226). -/
def clockDividerInRange (clockDivider : Word) : Bool := decide (clockDivider.toNat < 1024)

/-- The operands of an instruction are inside the ranges of 30 R130. -/
def Instr.wf : Instr → Bool
  | .sdInit d => clockDividerInRange d
  | .transmitCommand c _ _ => commandInRange c
  | .classify c _ => commandInRange c
  | .cmd0 | .cmd2 | .cmd3 | .cmd7 | .cmd8 | .cmd9 | .cmd12 | .cmd13 | .cmd16 _ | .cmd17 _ | .cmd18 _ | .cmd24 _
  | .cmd25 _ | .cmd55 _ | .acmd6 _ | .acmd13 | .acmd41 | .acmd51 | .sdInitializeLL _ | .sdReadBlocksDMA _ _ _ _
  | .sdWriteBlocksDMA _ _ _ _ | .sdCheckRead | .sdCheckWrite | .sdGetCardInfo | .sdGetStatus | .sdGetCardStatus _
  | .sdIsDetected | .sdAbort | .powerOn | .initializeCard | .decodeCSD | .decodeCID | .findSCR
  | .wideBusOperationConfig _ | .sendSDStatus | .sdmmc1IRQHandler | .sdmmc2IRQHandler | .decodeCardStatus _
  | .decodeR6 _ => true

/-- The instruction has an encoding: the two pure functions have no selector (opcode_table.json, format FUNC). -/
def Instr.encodable : Instr → Bool
  | .decodeCardStatus _ | .decodeR6 _ => false
  | .cmd0 | .cmd2 | .cmd3 | .cmd7 | .cmd8 | .cmd9 | .cmd12 | .cmd13 | .cmd16 _ | .cmd17 _ | .cmd18 _ | .cmd24 _
  | .cmd25 _ | .cmd55 _ | .acmd6 _ | .acmd13 | .acmd41 | .acmd51 | .sdInitializeLL _ | .sdInit _
  | .sdReadBlocksDMA _ _ _ _ | .sdWriteBlocksDMA _ _ _ _ | .sdCheckRead | .sdCheckWrite | .sdGetCardInfo | .sdGetStatus
  | .sdGetCardStatus _ | .sdIsDetected | .sdAbort | .transmitCommand _ _ _ | .classify _ _ | .powerOn | .initializeCard
  | .decodeCSD | .decodeCID | .findSCR | .wideBusOperationConfig _ | .sendSDStatus | .sdmmc1IRQHandler
  | .sdmmc2IRQHandler => true

end Sys2Proof
end

