-- ==== Sys2Proof/Decode.lean ====
section
/-! DEFINITION. Decode.lean: the decoder of SD command words (30 R100, R101, R110, R111) and host calls (30 R130, R131, R135), total
on any bytes, and after it the encoder written from the same tables. -/

namespace Sys2Proof

/-- Why bytes are no instruction: every one of these is `refuse(BadCall)` of 30 R131 when it is fetched. -/
inductive DecodeError where
  /-- A selector outside the table of 30 R130. -/
  | unknownSelector
  /-- A command word outside the table of 30 R110 (30 R132). -/
  | unknownCommand
  /-- Not the number of operand bytes the instruction has. -/
  | badLength
  /-- An operand outside its stated range (30 R131). -/
  | badOperand
  deriving DecidableEq, Repr

/-- The `n` low bytes of a number, least significant first (20 R84). -/
def leBytes : Nat → Nat → List Byte
  | 0, _ => []
  | n + 1, w => BitVec.ofNat 8 w :: leBytes n (w / 256)

/-- A 32-bit word as it lies in memory: least significant byte first (20 R84). -/
def wordBytes (w : Word) : List Byte :=
  [w.extractLsb' 0 8, w.extractLsb' 8 8, w.extractLsb' 16 8, w.extractLsb' 24 8]

/-- The 32-bit word whose bytes, least significant first, are `a b c d` (20 R84). -/
def wordOfBytes (a b c d : Byte) : Word := d ++ c ++ b ++ a

/-- A byte string as 32-bit little-endian words, if its length is a multiple of four. -/
def wordsOfBytes : List Byte → Option (List Word)
  | [] => some []
  | a :: b :: c :: d :: rest => (wordsOfBytes rest).map (wordOfBytes a b c d :: ·)
  | [_] | [_, _] | [_, _, _] => none

/-- An instruction that takes no operand word. -/
def noOperand (i : Instr) : List Word → Except DecodeError Instr
  | [] => .ok i
  | _ :: _ => .error .badLength

/-- An instruction that takes one operand word, read by `f`. -/
def oneOperand (f : Word → Except DecodeError Instr) : List Word → Except DecodeError Instr
  | [a] => f a
  | [] | _ :: _ :: _ => .error .badLength

/-- An instruction that takes four operand words. -/
def fourOperands (f : Word → Word → Word → Word → Instr) : List Word → Except DecodeError Instr
  | [a, b, c, d] => .ok (f a b c d)
  | [] | [_] | [_, _] | [_, _, _] | _ :: _ :: _ :: _ :: _ :: _ => .error .badLength

/-- The instruction, if its operands are inside the ranges of 30 R130. -/
def checked (i : Instr) : Except DecodeError Instr := if i.wf then .ok i else .error .badOperand

/-- `controllerSelector`: SDMMC1 = 0, SDMMC2 = 1 (30 R135). -/
def sdmmcOfPosition (a : Word) : Except DecodeError Sdmmc :=
  if a = 0 then .ok .sdmmc1 else if a = 1 then .ok .sdmmc2 else .error .badOperand

/-- `mode`: W1 = 0, W4 = 1, W8 = 2 (30 R135). -/
def modeOfPosition (a : Word) : Except DecodeError BusMode :=
  if a = 0 then .ok .w1 else if a = 1 then .ok .w4 else if a = 2 then .ok .w8 else .error .badOperand

/-- The block length of CMD16 by its position in 30 R106 (notes/assumptions/5.md). -/
def blockLenOfPosition (a : Word) : Except DecodeError BlockLen :=
  if a = 0 then .ok .b512 else if a = 1 then .ok .b8 else if a = 2 then .ok .b64 else .error .badOperand

/-- The argument of CMD55 by its position in 30 R110 (notes/assumptions/5.md). -/
def appArgOfPosition (a : Word) : Except DecodeError AppArg :=
  if a = 0 then .ok .none else if a = 1 then .ok .rcaArg else .error .badOperand

/-- The width of ACMD6 by its position, W1 = 0 and W4 = 1 (notes/assumptions/5.md). -/
def widthOfPosition (a : Word) : Except DecodeError BusWidth :=
  if a = 0 then .ok .w1 else if a = 1 then .ok .w4 else .error .badOperand

/-- The operation of a selector (30 R130) with its operand words. -/
def decodeSelector (sel : Nat) (ops : List Word) : Except DecodeError Instr :=
  match sel with
  | 0x01 => oneOperand (fun a => (sdmmcOfPosition a).map .sdInitializeLL) ops
  | 0x02 => oneOperand (fun a => checked (.sdInit a)) ops
  | 0x03 => fourOperands .sdReadBlocksDMA ops
  | 0x04 => fourOperands .sdWriteBlocksDMA ops
  | 0x05 => noOperand .sdCheckRead ops
  | 0x06 => noOperand .sdCheckWrite ops
  | 0x07 => noOperand .sdGetCardInfo ops
  | 0x08 => noOperand .sdGetStatus ops
  | 0x09 => oneOperand (fun a => .ok (.sdGetCardStatus a)) ops
  | 0x0A => noOperand .sdIsDetected ops
  | 0x0B => noOperand .sdAbort ops
  | 0x20 => match ops with
    | [c, a, rt] => checked (.transmitCommand c a rt)
    | _ => .error .badLength
  | 0x21 => match ops with
    | [c, rt] => checked (.classify c rt)
    | _ => .error .badLength
  | 0x22 => noOperand .powerOn ops
  | 0x23 => noOperand .initializeCard ops
  | 0x24 => noOperand .decodeCSD ops
  | 0x25 => noOperand .decodeCID ops
  | 0x26 => noOperand .findSCR ops
  | 0x27 => oneOperand (fun a => (modeOfPosition a).map .wideBusOperationConfig) ops
  | 0x28 => noOperand .sendSDStatus ops
  | 0x40 => noOperand .sdmmc1IRQHandler ops
  | 0x41 => noOperand .sdmmc2IRQHandler ops
  | _ => .error .unknownSelector

/-- `CMD_CLEAR_MASK` (30 R101): the fields of `CMDR` the transport writes; the others are kept from `CMDR`. -/
def cmdClearMask : Word := 0x00011F3F

/-- The mask of the command rows of opcode_table.json: `CMDINDEX`, `WAITRESP`, `CPSMEN`. -/
def commandRowMask : Word := 0x0000133F

/-- The command of a `CMDR` word (30 R110) with its operand words: the fields of the rows' mask decide, the others (`CMDTRANS`, `CMDSTOP` and the
rest, which no row fixes) do not. `appCmd`: the previous command was an accepted CMD55 (30 R111). -/
def decodeCommandWord (appCmd : Bool) (w : Word) (ops : List Word) : Except DecodeError Instr :=
  match (w &&& commandRowMask).toNat with
  | 0x1000 => noOperand .cmd0 ops
  | 0x1302 => noOperand .cmd2 ops
  | 0x1103 => noOperand .cmd3 ops
  | 0x1107 => noOperand .cmd7 ops
  | 0x1208 => noOperand .cmd8 ops
  | 0x1309 => noOperand .cmd9 ops
  | 0x110C => noOperand .cmd12 ops
  | 0x110D => noOperand (if appCmd then .acmd13 else .cmd13) ops
  | 0x1110 => oneOperand (fun a => (blockLenOfPosition a).map .cmd16) ops
  | 0x1111 => oneOperand (fun a => .ok (.cmd17 a)) ops
  | 0x1112 => oneOperand (fun a => .ok (.cmd18 a)) ops
  | 0x1118 => oneOperand (fun a => .ok (.cmd24 a)) ops
  | 0x1119 => oneOperand (fun a => .ok (.cmd25 a)) ops
  | 0x1137 => oneOperand (fun a => (appArgOfPosition a).map .cmd55) ops
  | 0x1106 => oneOperand (fun a => (widthOfPosition a).map .acmd6) ops
  | 0x1229 => noOperand .acmd41 ops
  | 0x1133 => noOperand .acmd51 ops
  | _ => .error .unknownCommand

/-- The decoder: total on any bytes, rejecting by name. -/
def decode (appCmd : Bool) : Code → Except DecodeError Instr
  | .call [] => .error .badLength
  | .call (sel :: operands) =>
    match wordsOfBytes operands with
    | some ops => decodeSelector sel.toNat ops
    | none => .error .badLength
  | .command bytes =>
    match wordsOfBytes bytes with
    | some (w :: ops) => decodeCommandWord appCmd w ops
    | some [] | none => .error .badLength

/-! ### The encoder -/

/-- The position of a controller in its operand set (30 R135). -/
def positionOfSdmmc : Sdmmc → Word
  | .sdmmc1 => 0
  | .sdmmc2 => 1

/-- The position of a mode in its operand set (30 R135). -/
def positionOfMode : BusMode → Word
  | .w1 => 0
  | .w4 => 1
  | .w8 => 2

/-- The position of a block length (notes/assumptions/5.md). -/
def positionOfBlockLen : BlockLen → Word
  | .b512 => 0
  | .b8 => 1
  | .b64 => 2

/-- The position of a CMD55 argument (notes/assumptions/5.md). -/
def positionOfAppArg : AppArg → Word
  | .none => 0
  | .rcaArg => 1

/-- The position of a bus width (notes/assumptions/5.md). -/
def positionOfWidth : BusWidth → Word
  | .w1 => 0
  | .w4 => 1

/-- A host call: selector byte and operand words (30 R135). -/
def callCode (sel : Byte) (ops : List Word) : Code := .call (sel :: ops.flatMap wordBytes)

/-- A command word with its operand words, the kept fields 0 (30 R110). -/
def commandCode (w : Word) (ops : List Word) : Code := .command ((w :: ops).flatMap wordBytes)

/-- The encoder: the bytes of an instruction, none for the two functions that have no selector. -/
def encode : Instr → Option Code
  | .cmd0 => some (commandCode 0x1000 [])
  | .cmd2 => some (commandCode 0x1302 [])
  | .cmd3 => some (commandCode 0x1103 [])
  | .cmd7 => some (commandCode 0x1107 [])
  | .cmd8 => some (commandCode 0x1208 [])
  | .cmd9 => some (commandCode 0x1309 [])
  | .cmd12 => some (commandCode 0x110C [])
  | .cmd13 => some (commandCode 0x110D [])
  | .cmd16 len => some (commandCode 0x1110 [positionOfBlockLen len])
  | .cmd17 block => some (commandCode 0x1111 [block])
  | .cmd18 block => some (commandCode 0x1112 [block])
  | .cmd24 block => some (commandCode 0x1118 [block])
  | .cmd25 block => some (commandCode 0x1119 [block])
  | .cmd55 arg => some (commandCode 0x1137 [positionOfAppArg arg])
  | .acmd6 width => some (commandCode 0x1106 [positionOfWidth width])
  | .acmd13 => some (commandCode 0x110D [])
  | .acmd41 => some (commandCode 0x1229 [])
  | .acmd51 => some (commandCode 0x1133 [])
  | .sdInitializeLL sel => some (callCode 0x01 [positionOfSdmmc sel])
  | .sdInit d => some (callCode 0x02 [d])
  | .sdReadBlocksDMA address buffer blockSize numBlocks => some (callCode 0x03 [address, buffer, blockSize, numBlocks])
  | .sdWriteBlocksDMA address buffer blockSize numBlocks => some (callCode 0x04 [address, buffer, blockSize, numBlocks])
  | .sdCheckRead => some (callCode 0x05 [])
  | .sdCheckWrite => some (callCode 0x06 [])
  | .sdGetCardInfo => some (callCode 0x07 [])
  | .sdGetStatus => some (callCode 0x08 [])
  | .sdGetCardStatus out => some (callCode 0x09 [out])
  | .sdIsDetected => some (callCode 0x0A [])
  | .sdAbort => some (callCode 0x0B [])
  | .transmitCommand command argument responseType => some (callCode 0x20 [command, argument, responseType])
  | .classify command responseType => some (callCode 0x21 [command, responseType])
  | .powerOn => some (callCode 0x22 [])
  | .initializeCard => some (callCode 0x23 [])
  | .decodeCSD => some (callCode 0x24 [])
  | .decodeCID => some (callCode 0x25 [])
  | .findSCR => some (callCode 0x26 [])
  | .wideBusOperationConfig mode => some (callCode 0x27 [positionOfMode mode])
  | .sendSDStatus => some (callCode 0x28 [])
  | .sdmmc1IRQHandler => some (callCode 0x40 [])
  | .sdmmc2IRQHandler => some (callCode 0x41 [])
  | .decodeCardStatus _ => none
  | .decodeR6 _ => none

/-- Whether the previous command must have been an accepted CMD55 for the encoded words to be read as this instruction: only the word
of CMD13 and ACMD13 means two commands of the table (30 R111). -/
def Instr.readAfter (appCmd : Bool) : Instr → Bool
  | .cmd13 => !appCmd
  | .acmd13 => appCmd
  | .cmd0 | .cmd2 | .cmd3 | .cmd7 | .cmd8 | .cmd9 | .cmd12 | .cmd16 _ | .cmd17 _ | .cmd18 _ | .cmd24 _ | .cmd25 _
  | .cmd55 _ | .acmd6 _ | .acmd41 | .acmd51 | .sdInitializeLL _ | .sdInit _ | .sdReadBlocksDMA _ _ _ _
  | .sdWriteBlocksDMA _ _ _ _ | .sdCheckRead | .sdCheckWrite | .sdGetCardInfo | .sdGetStatus | .sdGetCardStatus _
  | .sdIsDetected | .sdAbort | .transmitCommand _ _ _ | .classify _ _ | .powerOn | .initializeCard | .decodeCSD
  | .decodeCID | .findSCR | .wideBusOperationConfig _ | .sendSDStatus | .sdmmc1IRQHandler | .sdmmc2IRQHandler
  | .decodeCardStatus _ | .decodeR6 _ => true

/-! ### The words of the opcode table -/

/-- How many operand words a selector's operation has (30 R130). -/
def callOperandWords (sel : Nat) : Nat :=
  match sel with
  | 0x01 | 0x02 | 0x09 | 0x27 => 1
  | 0x03 | 0x04 => 4
  | 0x20 => 3
  | 0x21 => 2
  | _ => 0

/-- How many operand words a command word has in the model's encoding (notes/assumptions/5.md). -/
def commandOperandWords (w : Word) : Nat :=
  match (w &&& commandRowMask).toNat with
  | 0x1110 | 0x1111 | 0x1112 | 0x1118 | 0x1119 | 0x1137 | 0x1106 => 1
  | _ => 0

/-- An opcode-table row's word as an encoded instruction, the bits it gives no value being 0: an 8-bit row is a selector byte, a wider row
a command word. -/
def tableCode (nbits w : Nat) : Code :=
  if 8 < nbits then .command (leBytes (4 + 4 * commandOperandWords (BitVec.ofNat 32 w)) w)
  else .call (leBytes (1 + 4 * callOperandWords (w % 256)) w)

/-- The instruction the decoder reads from an opcode-table row's word (not after a CMD55). -/
def decodeTableWord (nbits w : Nat) : Option Instr := (decode false (tableCode nbits w)).toOption

end Sys2Proof
end

