-- ==== Sys2Proof/Config.lean ====
section
/-! DEFINITION. Config.lean: the parameters of 00 R9 that the source leaves to the implementation or the model, and the free
values, as constants without a body: nothing in Lean can evaluate them or prove a value of them. -/

namespace Sys2Proof

/-- `P_CLEAR_SET` (00 R9, 40 R161, D5). -/
inductive ClearSet where
  | cmdFlags
  | staticFlags
  deriving DecidableEq, Repr, Inhabited

/-- `P_CHECK_FORM` (00 R9, 44 R316, D22). -/
inductive CheckForm where
  | nested
  | errorFirst
  deriving DecidableEq, Repr, Inhabited

/-- The parameters of 00 R9. `P_ATTEMPTS` and `P_BLOCK` have the values the source fixes (Ops.lean), `P_INSTANCE` is the operand of
`SD_Initialize_LL`. The two parameters that are natural numbers ≥ 1 are held less 1, so that every `Params` meets the rule. -/
structure Params where
  /-- `P_CMD_BUDGET` less 1. -/
  cmdBudgetLess1 : Nat
  /-- `P_CLEAR_SET`. -/
  clearSet : ClearSet
  /-- `P_MAX_VOLT_TRIAL` less 1. -/
  maxVoltTrialLess1 : Nat
  /-- `P_SETTLE_MS`. -/
  settleMs : Nat
  /-- `P_INIT_CLKDIV`. -/
  initClkdiv : BitVec 10
  /-- `P_POLARITY` less 1: a bit position of `POWER`, one of the bits 1 to 4; bit 0 alone is `PWRCTRL = 0b01` and bits [31:5] are reserved, which the
  block never writes (10 R52, 30 R132; notes/assumptions/10.md). -/
  polarityLess1 : Fin 4
  /-- `P_BUS_WIDTH`. -/
  busWidth : BusWidth
  /-- `P_DETECT`. -/
  detect : Bool
  /-- `P_DETECT_LEVEL`. -/
  detectLevel : Bool
  /-- `P_CACHE_HOOKS`. -/
  cacheHooks : Bool
  /-- `P_DMA_REGION`, a set of 32-bit addresses as a list of (base, size) intervals. -/
  dmaRegion : List (Nat × Nat)
  /-- `P_DTIMER`. -/
  dtimer : Word
  /-- `P_CHECK_FORM`. -/
  checkForm : CheckForm
  deriving DecidableEq, Repr, Inhabited

/-- `P_CMD_BUDGET` ≥ 1 (40 R165, D4). -/
def Params.cmdBudget (p : Params) : Nat := p.cmdBudgetLess1 + 1

/-- `P_MAX_VOLT_TRIAL` ≥ 1 (41 R208, D11). -/
def Params.maxVoltTrial (p : Params) : Nat := p.maxVoltTrialLess1 + 1

/-- `P_POLARITY`, one of the bits 1 to 4 of `POWER` (10 R52, 41 R222). -/
def Params.polarity (p : Params) : Nat := p.polarityLess1.val + 1

/-- The values of the OPEN parameters, uninterpreted (00 R9; notes/assumptions/10.md). -/
opaque Config.openParams : Params

/-- A free 32-bit value: an SCR or SD-status word not received (43 R283, 44 R330), a read of the empty FIFO (93 U19). -/
opaque Config.freeWord : Nat → Word

/-- A free byte of a buffer that was raced with or moved without cache hooks (20 R90, R91). -/
opaque Config.freeByte : Nat → Byte

/-- A free choice: the draw of 41 R208 for a card that becomes ready on the last trial. -/
opaque Config.freeBool : Nat → Bool

end Sys2Proof
end

