-- ==== Sys2Proof/Machine/State.lean ====
section
/-! DEFINITION. State.lean: every piece of state the spec gives SDCTL (10_state.md, 70 R401), as plain data, the reasons a step can
stop, and the state after reset. -/

namespace Sys2Proof.Machine

/-! ### Results and stops -/

/-- The error taxonomy (60 R350): symbolic values, no numbers (00 R14). `LockUnlockFailed` is one value in two groups. -/
inductive Err where
  | ok
  | timeout | crcFail | illegalCommand
  | addrOutOfRange | addrMisaligned | blockLenErr | eraseSeqErr | badEraseParam | writeProtViolation | lockUnlockFailed
  | comCrcFailed | illegalCmd | cardEccFailed | ccError | generalUnknownError | streamReadUnderrun | streamWriteOverrun
  | cidCsdOverwrite | wpEraseSkip | cardEccDisabled | eraseReset | akeSeqError
  | dataTimeout | dataCrcFail | rxOverrun | txUnderrun | idmaError
  | requestNotApplicable | unsupportedFeature | invalidParameter | invalidVoltageRange
  | error | busy
  deriving DecidableEq, Repr

/-- The faults of the model (60 R354): the run stops; none is a value the block returns. -/
inductive Fault where
  /-- A session field, or `Operation`, was read before a rule wrote it (10 R33, 60 R362); raised by every reader of those fields. Safe. -/
  | unwrittenSession
  /-- A register access with `Instance = None` (10 R38); raised by `regRead` and `regWrite`. Safe. -/
  | unbound
  /-- A DMA buffer that is not word aligned (20 R87, 44 R302); raised by `xferBlocks`. Safe. -/
  | bufferMisaligned
  /-- A DMA buffer not wholly in `P_DMA_REGION`, the source's assertion (20 R83, 44 R302); raised by `xferBlocks`. Safe. -/
  | bufferNotDmaCapable
  deriving DecidableEq, Repr

/-- The refusals of the model (60 R354): the run leaves the admitted subset. -/
inductive Refusal where
  /-- An instruction that has no meaning yet; raised by `exec` only. Safe. -/
  | notModelled (mnemonic : String)
  /-- A command index the block never issues (30 R110, R132, 93 U24); raised by `transmitCommand` called with it. Safe. -/
  | commandNotIssued
  /-- A response type the spec refuses (30 R102, 40 R165); raised by `transmitCommand` and `classify`. Safe. -/
  | badResponseType
  /-- A selector or operand outside 30 R130, or an interrupt of the controller that is not bound (30 R131, 60 R356); raised by `step`, `SD_Init`,
  `transmitCommand`, `classify` and the interrupt entries. Safe. -/
  | badCall
  /-- Arming, `SD_Init` or `SD_Initialize_LL` while a transfer is in progress (10 R46, 41 R200, R228, 44 R302). Safe. -/
  | transferOutstanding
  /-- `blockSize` is not 512 (44 R302); raised by `xferBlocks`. Safe. -/
  | blockSizeNot512
  /-- `numBlocks` is 0 or above 65535 (44 R302); raised by `xferBlocks`. Safe. -/
  | badBlockCount
  /-- A block address of 2^23 or more on a card that is not high-capacity (44 R302); raised by `xferBlocks`. Safe. -/
  | addressOverflow
  deriving DecidableEq, Repr

/-- What a host call returns (30 R130). -/
inductive Result where
  | none
  | err (e : Err)
  | bool (b : Bool)
  deriving DecidableEq, Repr

/-! ### Card Session State (10 §1) -/

/-- The card types (10 R31). -/
inductive CardType where
  | standardV1_1
  | standardV2_0
  | highCapacity
  | secureDigitalIO
  | secureDigitalIOCombo
  | unknown
  deriving DecidableEq, Repr

/-- A 128-bit card register as four words, `w0` holding bits [127:96] (10 R36). -/
structure Reg128 where
  w0 : Word
  w1 : Word
  w2 : Word
  w3 : Word
  deriving DecidableEq, Repr

/-- The SCR: `w0` holds bits [63:32], `w1` bits [31:0] (10 R40). -/
structure Scr where
  w0 : Word
  w1 : Word
  deriving DecidableEq, Repr

/-- The four words of `S.CID` or `S.CSD`, each written by a statement of its own (41 R210); `none` is "unwritten" (10 R33). -/
structure RegCells where
  c0 : Option Word
  c1 : Option Word
  c2 : Option Word
  c3 : Option Word
  deriving DecidableEq, Repr

/-- The two words of `S.SCR`, each written by a statement of its own (43 R281). -/
structure ScrCells where
  c0 : Option Word
  c1 : Option Word
  deriving DecidableEq, Repr

/-- The CSD fields common to both layouts (42 R242). -/
structure CsdCommon where
  csdStruct : BitVec 2
  sysSpecVersion : BitVec 4
  reserved1 : BitVec 2
  taac : BitVec 8
  nsac : BitVec 8
  maxBusClkFrec : BitVec 8
  cardComdClasses : BitVec 12
  rdBlockLen : BitVec 4
  partBlockRead : BitVec 1
  wrBlockMisalign : BitVec 1
  rdBlockMisalign : BitVec 1
  dsrImpl : BitVec 1
  deriving DecidableEq, Repr

/-- The CSD fields of layout V1 (42 R243). -/
structure CsdV1 where
  reserved2 : BitVec 2
  deviceSize : BitVec 12
  maxRdCurrentVDDMin : BitVec 3
  maxRdCurrentVDDMax : BitVec 3
  maxWrCurrentVDDMin : BitVec 3
  maxWrCurrentVDDMax : BitVec 3
  deviceSizeMul : BitVec 3
  deriving DecidableEq, Repr

/-- The CSD fields of layout V2 (42 R244). -/
structure CsdV2 where
  reserved2 : BitVec 6
  deviceSize : BitVec 22
  reserved2b : BitVec 1
  deriving DecidableEq, Repr

/-- The layout-dependent fields of one decode (42 R243, R244). -/
inductive CsdLayout where
  | v1 (f : CsdV1)
  | v2 (f : CsdV2)
  deriving DecidableEq, Repr

/-- The two layouts (42 R241). -/
inductive CsdKind where
  | v1
  | v2
  deriving DecidableEq, Repr

/-- The CSD tail fields (42 R245). -/
structure CsdTail where
  eraseGrSize : BitVec 1
  eraseGrMul : BitVec 7
  wrProtectGrSize : BitVec 7
  wrProtectGrEnable : BitVec 1
  manDeflECC : BitVec 2
  wrSpeedFact : BitVec 3
  maxWrBlockLen : BitVec 4
  writeBlockPaPartial : BitVec 1
  reserved3 : BitVec 4
  contentProtectAppli : BitVec 1
  fileFormatGroup : BitVec 1
  copyFlag : BitVec 1
  permWrProtect : BitVec 1
  tempWrProtect : BitVec 1
  fileFormat : BitVec 2
  ecc : BitVec 2
  csdCRC : BitVec 7
  reserved4 : BitVec 1
  deriving DecidableEq, Repr

/-- `S.CardInfo.cid` (42 R250). -/
structure Cid where
  manufacturerID : BitVec 8
  oemAppliID : BitVec 16
  prodName1 : BitVec 32
  prodName2 : BitVec 8
  prodRev : BitVec 8
  prodSN : BitVec 32
  reserved1 : BitVec 4
  manufactDate : BitVec 12
  cidCRC : BitVec 7
  reserved2 : BitVec 1
  deriving DecidableEq, Repr

/-- `S.CardInfo` (10 R35): `none` is the spec's "unwritten" (10 R33). Capacities are naturals (42 R246). The fields of a layout keep their values when the
other one is decoded (70 R403); `csdKind` is the layout decoded last, under which 42 R244 lets them be read (notes/assumptions/34.md). -/
structure CardInfo where
  cardType : Option CardType
  rca : Option (BitVec 16)
  csdCommon : Option CsdCommon
  csdKind : Option CsdKind
  csdV1 : Option CsdV1
  csdV2 : Option CsdV2
  csdTail : Option CsdTail
  cid : Option Cid
  cardCapacity : Option Nat
  cardBlockSize : Option Nat
  deriving DecidableEq, Repr

/-- `S.SDStatus`, the parsed SD status (44 R331). -/
structure SdStatus where
  dataBusWidth : BitVec 2
  securedMode : BitVec 1
  cardType : BitVec 16
  protectedAreaSize : BitVec 32
  speedClass : BitVec 8
  performanceMove : BitVec 8
  allocationUnitSize : BitVec 4
  eraseSize : BitVec 16
  eraseTimeout : BitVec 6
  eraseOffset : BitVec 2
  deriving DecidableEq, Repr

/-- The Card Session State (10 R30). A field that is `none` is "unwritten", the spec's own state: reading it raises
`Fault(UnwrittenSession)` (10 R33). -/
structure Session where
  cardType : Option CardType
  rca : Option (BitVec 16)
  cid : RegCells
  csd : RegCells
  cardInfo : CardInfo
  capArg : Option Word
  scr : ScrCells
  sdStatus : Option SdStatus
  /-- `S.Instance`: the bound controller (10 R38). -/
  bound : Option Sdmmc
  powered : Bool
  deriving DecidableEq, Repr

/-! ### Transfer State (10 §2) -/

/-- Single or multiple blocks (10 R42). -/
inductive Count where
  | single
  | multiple
  deriving DecidableEq, Repr

/-- The direction of a transfer (10 R42). -/
inductive Dir where
  | read
  | write
  deriving DecidableEq, Repr

/-- `S.Operation` (10 R42). -/
structure Operation where
  count : Count
  dir : Dir
  deriving DecidableEq, Repr

/-- The Transfer State (10 R41). -/
structure Transfer where
  operation : Option Operation
  /-- `S.TransferComplete` (10 R43). -/
  complete : Bool
  /-- `S.TransferError` (10 R44). -/
  error : Err
  rxCplt : Bool
  txCplt : Bool
  deriving DecidableEq, Repr

/-! ### Sequencer position (10 §3) -/

/-- The operation that called `wideBusOperationConfig`. -/
inductive WideCaller where
  | host
  | sdInit
  deriving DecidableEq, Repr

/-- The operation that called `powerOn`; `SD_Init` with its operand, which its later stages use. -/
inductive PowerCaller where
  | host
  | sdInit (clockDivider : Word)
  deriving DecidableEq, Repr

/-- The operation that called `findSCR`. -/
inductive ScrCaller where
  | host
  | wideBus (mode : BusMode) (caller : WideCaller)
  deriving DecidableEq, Repr

/-- The operation that called `sendSDStatus`. -/
inductive SsrCaller where
  | host
  | getCardStatus (out : Word)
  deriving DecidableEq, Repr

/-- The operations that have a pseudocode, or whose rule describes their statements in order. -/
inductive Proc where
  | transmitCommand | classify | decodeCardStatus | decodeR6
  | sdInitializeLL | sdIsDetected | powerOn | initializeCard | sdInit
  | sdGetCardInfo | decodeCSD | decodeCID
  | findSCR | wideBusOperationConfig
  | xferBlocks | checkNested | checkErrorFirst | sdGetStatus | sendSDStatus | sdGetCardStatus
  | sdAbort | irqHandler
  deriving DecidableEq, Repr

/-- A point in a pseudocode (10 R49): the line, counted from 1 below the line that names the operation (line 0 is the admission of the call, where its rule
has one, 41 R200, R228), and which part of the line: 0 is its first statement
where that is no step of its own (10 R50: a call, a test, an assignment of a local variable or of the session, a return); the steps and the further
statements of the line count on from 1, also where the line begins with a step. The lines of `xferBlocks` run on through the blocks of
44 R302, R303, the hook of R304, R305, R308 and R309; an operation without a pseudocode has its rule's statements as lines (notes/assumptions/4.md). -/
structure Point where
  proc : Proc
  line : Nat
  part : Nat
  deriving DecidableEq, Repr

/-- What `HOST` executes: an operation from its first statement (30 R130; an SD command of the program is a `transmitCommand`), or one that goes on from
the head of a wait without a budget (70 R423), with the words the polled read has received. -/
inductive Place where
  | call (i : Instr)
  | delay (caller : PowerCaller)
  | scrLoop (caller : ScrCaller) (words : List Word)
  | ssrLoop (caller : SsrCaller) (words : List Word)
  | settleLoop (caller : WideCaller) (code : BitVec 2)
  deriving DecidableEq, Repr

/-- `S.step` of `HOST` (10 R49): `Idle`, or inside an operation at a point of its pseudocode. `path` holds the calls it stands in, outermost first, and
last the statement it takes; it is empty before the first one. Between two steps of the model `HOST` is idle or holds (00 R13) at the head of a
wait (notes/assumptions/4.md). -/
inductive HostStep where
  | idle
  | inside (place : Place) (path : List Point)
  deriving DecidableEq, Repr

/-- `S.step` of `IRQ` (10 R49): `Idle`, or inside the handler at a point of its pseudocode, as for `HOST`; it is not re-entered while it runs
(60 R357). -/
inductive IrqStep where
  | idle
  | inside (path : List Point)
  deriving DecidableEq, Repr

/-- The agents that stand in a pseudocode (92 D1). -/
inductive Agent where
  | host
  | irq
  deriving DecidableEq, Repr

/-! ### The peripheral (10 §4) -/

/-- The registers of one controller (10 R51). -/
inductive Reg where
  | power | clkcr | argr | cmdr | respcmdr | resp1 | resp2 | resp3 | resp4 | dtimer | dlen | dctrl | dcntr | sta | icr
  | mask | acktimer | idmactrl | idmabsize | idmabase0 | idmabase1 | fifo
  deriving DecidableEq, Repr

/-- One controller: its registers (10 R51) and the state the spec implies beside them. -/
structure Periph where
  power : Word
  clkcr : Word
  argr : Word
  cmdr : Word
  respcmdr : Word
  resp1 : Word
  resp2 : Word
  resp3 : Word
  resp4 : Word
  dtimer : Word
  dlen : Word
  dctrl : Word
  dcntr : Word
  sta : Word
  icr : Word
  mask : Word
  acktimer : Word
  idmactrl : Word
  idmabsize : Word
  idmabase0 : Word
  idmabase1 : Word
  /-- The receive FIFO, oldest word first (20 R85, R88). -/
  fifo : List Word
  /-- The words written to `FIFO` and not yet sent to the card, oldest first (10 R51, R67, 20 R88). -/
  txFifo : List Word
  /-- A command has been started and none of its flags set: `ENV` may write the response registers (10 R67). -/
  respOpen : Bool
  /-- "A command with CMDTRANS = 1 has been sent" and its data phase is not over (10 R67). -/
  dataSent : Bool
  /-- How many bytes the IDMA has moved: the `k` of 20 R82. -/
  dmaCount : Nat
  /-- The attempts of a transfer command were exhausted since the IDMA was armed (44 R309). -/
  exhausted : Bool
  /-- The started command was sent with a stale `CMDTRANS` (70 R424) and not yet taken as the start of a transfer (93 U21). -/
  restartOpen : Bool
  /-- `WIDBUS` before the last write of `CLKCR` that changed it (43 R291). -/
  widPrev : BitVec 2
  /-- Reads of `CLKCR` show `widPrev` (43 R291). -/
  widStale : Bool
  /-- `PinClockSetup` has clocked the controller and connected its pins (10 R66). -/
  clocked : Bool
  /-- `IrqEnable` has routed the data-path interrupt to `IRQ` (10 R60, R66). -/
  routed : Bool
  deriving DecidableEq, Repr

/-! ### What the outside does, as data -/

/-- The response registers `ENV` writes (10 R61, R67). -/
inductive RespReg where
  | respcmdr | resp1 | resp2 | resp3 | resp4
  deriving DecidableEq, Repr

/-- One move of `ENV` (10 R67), or the entry of `IRQ` (60 R370), at a step boundary. A move the rules do not allow in the state it
meets changes nothing. -/
inductive Move where
  /-- Set flags of a started command (10 R67). -/
  | cmdFlags (i : Sdmmc) (flags : Word)
  /-- Write a response register of a started command (10 R67). -/
  | respond (i : Sdmmc) (r : RespReg) (v : Word)
  /-- The command ends: `CPSMEN` is cleared (10 R61). -/
  | cmdEnd (i : Sdmmc)
  /-- Set data flags (10 R67). -/
  | dataFlags (i : Sdmmc) (flags : Word)
  /-- The data phase ends: `DTEN` is cleared (10 R61), and the liberty of a command sent with `CMDTRANS` ends (10 R67; notes/assumptions/24.md). -/
  | dataPhaseEnd (i : Sdmmc)
  /-- `DTEN` is cleared (10 R61), and the liberty of a command sent with `CMDTRANS` goes on (10 R67; notes/assumptions/24.md). -/
  | dtenClear (i : Sdmmc)
  /-- A word from the card enters the receive FIFO (10 R67). -/
  | fifoPush (i : Sdmmc) (w : Word)
  /-- The oldest word written to `FIFO` goes to the card (10 R67). -/
  | fifoSend (i : Sdmmc)
  /-- The peripheral takes a command sent with a stale `CMDTRANS` as the start of a transfer: the IDMA is at byte 0 (93 U21, 70 R424). -/
  | dataRestart (i : Sdmmc)
  /-- The IDMA stores bytes from the card (20 R82). -/
  | dmaStore (i : Sdmmc) (bytes : List Byte)
  /-- The IDMA sends the next `n` bytes of the buffer to the card (20 R82). -/
  | dmaSend (i : Sdmmc) (n : Nat)
  /-- Set `IDMATE` (20 R95). -/
  | idmaError (i : Sdmmc)
  /-- The flags that follow the hardware state change (10 R59). -/
  | dynFlags (i : Sdmmc) (flags : Word)
  /-- Reads of `CLKCR` show the previous `WIDBUS` from here, or again the last one written (43 R291). -/
  | staleWidbus (i : Sdmmc) (stale : Bool)
  /-- The reserved bits of a register change (93 U23). -/
  | reservedBits (i : Sdmmc) (r : Reg) (v : Word)
  /-- The presence pin changes (10 R66). -/
  | pin (level : Bool)
  /-- The collaborator of `Delay` takes its time, or returns (10 R66, 70 R423). -/
  | delayRuns (running : Bool)
  /-- A pending interrupt of controller `i` is taken (60 R370). -/
  | irq (i : Sdmmc)
  deriving DecidableEq, Repr

/-- One line of the program (30 R135), or a memory access of the host program outside the block (20 R80). -/
inductive Line where
  /-- A `call` or `cmd` line: an encoded instruction. -/
  | code (c : Code)
  /-- An `env:` or `irq` line. -/
  | env (moves : List Move)
  /-- The host program loads a byte of memory. -/
  | load (a : Word)
  /-- The host program stores a byte of memory. -/
  | store (a : Word) (b : Byte)
  deriving DecidableEq, Repr

/-- A transfer buffer: direction, base and length in bytes (20 R91). -/
structure Buffer where
  dir : Dir
  base : Nat
  len : Nat
  deriving DecidableEq, Repr

/-- A data byte the card has received. -/
structure SentByte where
  byte : Byte
  /-- The address the IDMA read it from, while the write buffer it lies in is in use: a host store there makes the byte a draw (20 R91). -/
  racing : Option Nat
  deriving DecidableEq, Repr

/-- The machine. The fields `result` to `program` are the model's own (INVENTORY.md). -/
structure State where
  /-- The parameters of the machine, an argument of the model (00 R9); no step changes them. -/
  cfg : Params
  session : Session
  xfer : Transfer
  hostStep : HostStep
  irqStep : IrqStep
  sdmmc1 : Periph
  sdmmc2 : Periph
  /-- System memory (20 R80) in canonical form: addresses rising, no byte equal to what an unlisted address reads as. -/
  mem : List Host.Cell
  /-- The level of the presence pin (10 R66). -/
  pin : Bool
  /-- The collaborator of `Delay` has not returned: a `Delay` that `HOST` calls waits (10 R66, 70 R423). -/
  delayRuns : Bool
  /-- The data bytes the card has received, in order (20 R82). -/
  sent : List SentByte
  /-- The structures `SD_GetCardStatus(out)` has written, by address, the newest first (44 R331). -/
  structs : List (Word × SdStatus)
  /-- What the last host call returned. -/
  result : Result
  /-- The bytes of the last `sendSDStatus` (44 R330). -/
  ssr : List Byte
  /-- The last command word written to `CMDR` was that of a CMD55, which is in progress or was accepted (30 R111). -/
  appCmd : Bool
  /-- The byte the host program last loaded. -/
  hostByte : Byte
  /-- The buffers of the transfers whose completion has not been reported, the newest first (20 R91). -/
  windows : List Buffer
  /-- Addresses whose byte the card receives as a draw (20 R90, R91). -/
  tainted : List Nat
  /-- Read buffers moved without cache hooks (20 R90), or touched by the host during their transfer (70 R428). -/
  stale : List Buffer
  /-- How many free values have been drawn. -/
  draws : Nat
  /-- The moves at the coming step boundaries, one slot per step of `HOST` or `IRQ` (60 R370). -/
  sched : List (List Move)
  /-- The coming lines of the host program (30 R135). -/
  program : List Line
  deriving DecidableEq, Repr

/-! ### Reset (70 R401) -/

/-- A controller after reset (10 R51, 70 R401). -/
def Periph.reset : Periph where
  power := 0
  clkcr := 0
  argr := 0
  cmdr := 0
  respcmdr := 0
  resp1 := 0
  resp2 := 0
  resp3 := 0
  resp4 := 0
  dtimer := 0
  dlen := 0
  dctrl := 0
  dcntr := 0
  sta := 0
  icr := 0
  mask := 0
  acktimer := 0
  idmactrl := 0
  idmabsize := 0
  idmabase0 := 0
  idmabase1 := 0
  fifo := []
  txFifo := []
  respOpen := false
  dataSent := false
  dmaCount := 0
  exhausted := false
  restartOpen := false
  widPrev := 0
  widStale := false
  clocked := false
  routed := false

/-- `S.CardInfo` with every field unwritten (10 R33). -/
def CardInfo.unwritten : CardInfo where
  cardType := none
  rca := none
  csdCommon := none
  csdKind := none
  csdV1 := none
  csdV2 := none
  csdTail := none
  cid := none
  cardCapacity := none
  cardBlockSize := none

/-- A captured register none of whose words is written (10 R33). -/
def RegCells.unwritten : RegCells := ⟨none, none, none, none⟩

/-- An SCR neither of whose words is written (10 R33). -/
def ScrCells.unwritten : ScrCells := ⟨none, none⟩

/-- The session after reset: unwritten, unbound, not powered (10 R33). -/
def Session.reset : Session where
  cardType := none
  rca := none
  cid := RegCells.unwritten
  csd := RegCells.unwritten
  cardInfo := CardInfo.unwritten
  capArg := none
  scr := ScrCells.unwritten
  sdStatus := none
  bound := none
  powered := false

/-- The Transfer State after reset (10 R48). -/
def Transfer.reset : Transfer where
  operation := none
  complete := false
  error := .ok
  rxCplt := false
  txCplt := false

/-- The parameters of the machine: the open ones are uninterpreted, `P_CLEAR_SET` and `P_CHECK_FORM` as 00 R9 gives them
(DESIGN CHOICE, unsafe for a claim that rests on one of these two; notes/assumptions/10.md). -/
def resetParams : Params := { Config.openParams with clearSet := .cmdFlags, checkForm := .nested }

/-- The state after reset (70 R401). -/
def State.reset : State where
  cfg := resetParams
  session := Session.reset
  xfer := Transfer.reset
  hostStep := .idle
  irqStep := .idle
  sdmmc1 := Periph.reset
  sdmmc2 := Periph.reset
  mem := []
  pin := false
  delayRuns := false
  sent := []
  structs := []
  result := .none
  ssr := []
  appCmd := false
  hostByte := 0
  windows := []
  tainted := []
  stale := []
  draws := 0
  sched := []
  program := []

/-! ### Updates -/

/-- The controller `i`. -/
def State.periph (s : State) : Sdmmc → Periph
  | .sdmmc1 => s.sdmmc1
  | .sdmmc2 => s.sdmmc2

/-- The state with controller `i` replaced. -/
def State.setPeriph (s : State) (i : Sdmmc) (p : Periph) : State :=
  match i with
  | .sdmmc1 => { s with sdmmc1 := p }
  | .sdmmc2 => { s with sdmmc2 := p }

/-- The state with the session replaced. -/
def State.setSession (s : State) (x : Session) : State := { s with session := x }

/-- The state with the Transfer State replaced. -/
def State.setXfer (s : State) (x : Transfer) : State := { s with xfer := x }

/-- The state with the handler's position replaced. -/
def State.setIrqStep (s : State) (x : IrqStep) : State := { s with irqStep := x }

/-- The state with memory replaced. -/
def State.setMem (s : State) (m : List Host.Cell) : State := { s with mem := m }

/-- The state with the schedule replaced. -/
def State.setSched (s : State) (x : List (List Move)) : State := { s with sched := x }

/-- The state at the end of a call: `HOST` is at `h`, the call returned `r`. -/
def State.setReturn (s : State) (h : HostStep) (r : Result) : State := { s with hostStep := h, result := r }

/-- The state with `HOST` at `h`. -/
def State.setHostStep (s : State) (h : HostStep) : State := { s with hostStep := h }

/-- A position moved to `path` in the operation it is in; `Idle` stays `Idle`. -/
def HostStep.goto (path : List Point) : HostStep → HostStep
  | .idle => .idle
  | .inside p _ => .inside p path

/-- The handler's position moved to `path`; `Idle` stays `Idle`. -/
def IrqStep.goto (path : List Point) : IrqStep → IrqStep
  | .idle => .idle
  | .inside _ => .inside path

/-- The state after agent `a` has come to `path`: its position alone (10 R49). -/
def State.moved (s : State) (a : Agent) (path : List Point) : State :=
  match a with
  | .host => s.setHostStep (s.hostStep.goto path)
  | .irq => s.setIrqStep (s.irqStep.goto path)

/-- The state with `HOST` before the first statement of `i`. -/
def State.enter (s : State) (i : Instr) : State := s.setHostStep (.inside (.call i) [])

/-- The state with the "accepted CMD55" mark replaced. -/
def State.setAppCmd (s : State) (b : Bool) : State := { s with appCmd := b }

/-- The state with the counter of free values replaced. -/
def State.setDraws (s : State) (n : Nat) : State := { s with draws := n }

end Sys2Proof.Machine
end

