-- ==== Sys2Proof/Machine/Flags.lean ====
section
/-! DEFINITION. Flags.lean: the flags of `STA`, `ICR` and `MASK` (10 R57, R58) and the error bits of the card status and of the R6
word (40 R176, R180). -/

namespace Sys2Proof.Machine

/-! ### The flags of STA (10 R57) -/

/-- `CCRCFAIL`, bit 0: command response received, CRC check failed. -/
def ccrcfail : Word := 0x00000001
/-- `DCRCFAIL`, bit 1: data block sent or received, CRC check failed. -/
def dcrcfail : Word := 0x00000002
/-- `CTIMEOUT`, bit 2: command response timeout. -/
def ctimeout : Word := 0x00000004
/-- `DTIMEOUT`, bit 3: data timeout. -/
def dtimeout : Word := 0x00000008
/-- `TXUNDERR`, bit 4: transmit FIFO underrun. -/
def txunderr : Word := 0x00000010
/-- `RXOVERR`, bit 5: receive FIFO overrun. -/
def rxoverr : Word := 0x00000020
/-- `CMDREND`, bit 6: command response received, CRC passed. -/
def cmdrend : Word := 0x00000040
/-- `CMDSENT`, bit 7: command sent, no response required. -/
def cmdsent : Word := 0x00000080
/-- `DATAEND`, bit 8: data transfer ended. -/
def dataend : Word := 0x00000100
/-- `RXFIFOE`, bit 19: receive FIFO empty. -/
def rxfifoe : Word := 0x00080000
/-- `BUSYD0END`, bit 21: end of D0 busy following a response. -/
def busyd0end : Word := 0x00200000
/-- `IDMATE`, bit 27: IDMA transfer error. -/
def idmate : Word := 0x08000000

/-! ### Named masks (10 R58) -/

/-- Every static flag. -/
def staticFlags : Word := 0x1FE00FFF
/-- CCRCFAIL, CTIMEOUT, CMDREND, CMDSENT, BUSYD0END. -/
def cmdFlags : Word := 0x002000C5
/-- DCRCFAIL, DTIMEOUT, TXUNDERR, RXOVERR, DATAEND, DHOLD, DBCKEND, DABORT, IDMATE, IDMABTC. -/
def dataFlags : Word := 0x18000F3A
/-- CCRCFAIL, CMDREND, CTIMEOUT, BUSYD0END. -/
def respWait : Word := 0x00200045
/-- DCRCFAIL, DTIMEOUT, RXOVERR, DATAEND. -/
def rdIrqs : Word := 0x0000012A
/-- DCRCFAIL, DTIMEOUT, TXUNDERR, DATAEND. -/
def wrIrqs : Word := 0x0000011A
/-- RD_IRQS, WR_IRQS and IDMATE. -/
def xferIrqs : Word := 0x0800013A
/-- The flags that follow the hardware state, bits 20 to 12 (10 R57). -/
def dynamicFlags : Word := 0x001FF000
/-- The flags that end a polled read: RXOVERR, DCRCFAIL, DTIMEOUT, DATAEND (43 R281, 44 R330). -/
def pollEnd : Word := 0x0000012A

/-- A flag of a status word is set. -/
def hasFlag (sta flag : Word) : Bool := (sta &&& flag) != 0

/-- `CLEARSET` (40 R161). -/
def clearSetMask : ClearSet → Word
  | .cmdFlags => cmdFlags
  | .staticFlags => staticFlags

/-- `WAITSET` of a response type (40 R163). -/
def waitSet (rt : Int) : Word := if rt ≤ 0 then cmdsent else respWait

/-- A write of `v` to `ICR` (10 R59): a 1 at a static position clears that bit of `STA`. -/
def clearedBy (sta v : Word) : Word := sta &&& ~~~(v &&& staticFlags)

/-- The data-path interrupt is pending (10 R60). -/
def interruptPending (sta mask : Word) : Bool := (sta &&& mask) != 0

/-! ### Reserved bits (10 R52 to R56) -/

/-- The reserved bits of a register the block writes (10 R52 to R56); for the others the rules name none that `ENV` may change. -/
def reservedMask : Reg → Word
  | .power => 0xFFFFFFE0
  | .clkcr => 0xFFC02C00
  | .cmdr => 0xFFFE0000
  | .dlen => 0xFE000000
  | .dctrl => 0xFFFFC000
  | .idmactrl => 0xFFFFFFF8
  | .argr | .respcmdr | .resp1 | .resp2 | .resp3 | .resp4 | .dtimer | .dcntr | .sta | .icr | .mask | .acktimer
  | .idmabsize | .idmabase0 | .idmabase1 | .fifo => 0

/-! ### The card status (40 R176) -/

/-- `CS_ERRORBITS`: the 19 error bits (40 R176). -/
def csErrorBits : Word := 0xFDFFE008

/-- The error bits of the card status with their conditions, highest priority first (40 R176). -/
def cardStatusTable : List (Nat × Err) :=
  [(31, .addrOutOfRange), (30, .addrMisaligned), (29, .blockLenErr), (28, .eraseSeqErr), (27, .badEraseParam),
   (26, .writeProtViolation), (24, .lockUnlockFailed), (23, .comCrcFailed), (22, .illegalCmd), (21, .cardEccFailed),
   (20, .ccError), (19, .generalUnknownError), (18, .streamReadUnderrun), (17, .streamWriteOverrun),
   (16, .cidCsdOverwrite), (15, .wpEraseSkip), (14, .cardEccDisabled), (13, .eraseReset), (3, .akeSeqError)]

/-- The first condition of a table whose bit is set; `Ok` if none is. -/
def firstCondition : List (Nat × Err) → Word → Err
  | [], _ => .ok
  | (bit, e) :: rest, r => if r.getLsbD bit then e else firstCondition rest r

/-- `decodeCardStatus` (40 R177). -/
def decodeCardStatus (r : Word) : Err :=
  if (r &&& csErrorBits) = 0 then .ok else firstCondition cardStatusTable r

/-- `CURRENT_STATE` of a card status (40 R178). -/
def currentState (r : Word) : Nat := (r.extractLsb' 9 4).toNat

/-- The result of the card status poll for a `CURRENT_STATE` (44 R325). -/
def statusOfState (st : Nat) : Err :=
  if st = 4 then .ok else if st = 5 ∨ st = 6 ∨ st = 7 then .busy else .error

/-! ### The R6 word (40 R180) -/

/-- The error bits of the R6 word (40 R180). -/
def r6ErrorBits : Word := 0x0000E000

/-- The error of an R6 word whose error bits are not all 0: general, illegal, then CRC (40 R180). -/
def r6Error (r : Word) : Err :=
  if r.getLsbD 13 then .generalUnknownError else if r.getLsbD 14 then .illegalCmd else .comCrcFailed

/-! ### The data-path errors (60 R360, R364; 43 R281) -/

/-- The error of the handler's data-error branch: CRC, timeout, overrun, underrun, in that order (60 R364); none for a spurious entry. -/
def handlerError (sta : Word) : Option Err :=
  if hasFlag sta dcrcfail then some .dataCrcFail
  else if hasFlag sta dtimeout then some .dataTimeout
  else if hasFlag sta rxoverr then some .rxOverrun
  else if hasFlag sta txunderr then some .txUnderrun
  else none

/-- The error of a polled read that has ended: timeout, CRC, overrun, in that order (43 R281, 44 R330). -/
def pollError (sta : Word) : Err :=
  if hasFlag sta dtimeout then .dataTimeout
  else if hasFlag sta dcrcfail then .dataCrcFail
  else if hasFlag sta rxoverr then .rxOverrun
  else .ok

end Sys2Proof.Machine
end

