-- ==== Sys2Proof/Machine/Operands.lean ====
section
/-! DEFINITION. Operands.lean: every operand form of the block: the command word (30 R100 to R102), the arguments (30 R106), the
data-control words (30 R112), the card registers' bit fields (42, 43, 44). -/

namespace Sys2Proof.Machine

/-! ### Constants -/

/-- `P_ATTEMPTS` (00 R9, 44 R308, 90 C1). -/
def attempts : Nat := 10

/-- `P_BLOCK` (00 R9). -/
def blockBytes : Nat := 512

/-! ### The command word -/

/-- `WR(rt)`, the `WAITRESP` code of a response type (30 R102). -/
def waitResp (rt : Int) : Word := if rt = 0 then 0 else if rt = 1 ∨ rt = 6 then 1 else if rt = 3 then 2 else 3

/-- The response types of 30 R102. -/
def responseTypeAdmitted (rt : Int) : Bool := rt = 0 ∨ rt = 1 ∨ rt = 2 ∨ rt = 3 ∨ rt = 6

/-- The command indices of 30 R110: no other is ever written to `CMDINDEX` (30 R110, R132). -/
def issuedCommands : List Word := [0, 2, 3, 6, 7, 8, 9, 12, 13, 16, 17, 18, 24, 25, 41, 51, 55]

/-- `CPSMEN`, bit 12 of `CMDR` (10 R54). -/
def cpsmen : Word := 0x1000

/-- `CMDTRANS`, bit 6 of `CMDR` (10 R54). -/
def cmdtrans : Word := 0x40

/-- The word the transport writes over the word `old` that `CMDR` holds (30 R101). -/
def commandWord (old command : Word) (rt : Int) : Word :=
  (old &&& ~~~cmdClearMask) ||| command ||| (waitResp rt <<< 8) ||| cpsmen

/-- `WAITRESP` of a command word is 0b00 (10 R54, R67). -/
def noResponse (cmdr : Word) : Bool := cmdr.extractLsb' 8 2 = 0

/-- `WAITRESP` of a command word is 0b11: the response is an R2 frame (10 R36, R54). -/
def longResponse (cmdr : Word) : Bool := cmdr.extractLsb' 8 2 = 3

/-! ### Arguments (30 R106) -/

/-- `RCAARG`: `zext_32(S.RCA) << 16` (10 R32). -/
def rcaArgument (rca : BitVec 16) : Word := rca.setWidth 32 <<< 16

/-- The check pattern of CMD8. -/
def checkPattern : Word := 0x000001AA

/-- The argument of ACMD41: `0x80100000 | S.CapArg`. -/
def acmd41Argument (capArg : Word) : Word := 0x80100000 ||| capArg

/-- The capacity request of the ACMD41 argument for a card that answered CMD8 (10 R37). -/
def highCapacityRequest : Word := 0x40000000

/-- `DADDR`: the block address on a high-capacity card, else `(N × 512) mod 2^32`. -/
def dataAddress (t : CardType) (n : Word) : Word := if t = .highCapacity then n else n * 512

/-- The block length of CMD16. -/
def blockLenArgument : BlockLen → Word
  | .b512 => 512
  | .b8 => 8
  | .b64 => 64

/-- The width code of ACMD6 (43 R288). -/
def widthArgument : BusWidth → Word
  | .w1 => 0
  | .w4 => 2

/-- `P_BUS_WIDTH` as an operand of `wideBusOperationConfig` (41 R227). -/
def modeOfWidth : BusWidth → BusMode
  | .w1 => .w1
  | .w4 => .w4

/-- The controller-and-card width of a mode: W8 is turned away before it is used (43 R285). -/
def widthOfMode : BusMode → BusWidth
  | .w1 => .w1
  | .w4 | .w8 => .w4

/-- The `WIDBUS` code of a width (43 R290). -/
def widbusCode : BusWidth → BitVec 2
  | .w1 => 0
  | .w4 => 1

/-! ### Control words -/

/-- `DCTRL` of a DMA transfer (30 R112). -/
def dmaControl : Dir → Word
  | .read => 0x00000092
  | .write => 0x00000090

/-- `DCTRL` of the SCR read (30 R112). -/
def scrControl : Word := 0x00000033

/-- `DCTRL` of the SD status read (30 R112). -/
def ssrControl : Word := 0x00000063

/-- The interrupt sources of a direction (44 R311). -/
def dirIrqs : Dir → Word
  | .read => rdIrqs
  | .write => wrIrqs

/-- The transfer command (44 R307). -/
def transferCommand : Dir → Count → Word
  | .read, .single => 17
  | .read, .multiple => 18
  | .write, .single => 24
  | .write, .multiple => 25

/-- The block count's tag (44 R305). -/
def countOf (numBlocks : Word) : Count := if numBlocks.toNat > 1 then .multiple else .single

/-- `WIDBUS`, bits [15:14] of `CLKCR` (10 R53). -/
def widbus (clkcr : Word) : BitVec 2 := clkcr.extractLsb' 14 2

/-- `CLKCR` with `WIDBUS` replaced (43 R285). -/
def withWidbus (clkcr : Word) (code : BitVec 2) : Word := (clkcr &&& ~~~(0x0000C000 : Word)) ||| (code.setWidth 32 <<< 14)

/-- `CLKCR` with `CLKDIV` replaced (41 R226). -/
def withClkdiv (clkcr : Word) (divider : Word) : Word := (clkcr &&& ~~~(0x000003FF : Word)) ||| divider

/-- `DTDIR` of `DCTRL`: card to controller (10 R55). -/
def toController (dctrl : Word) : Bool := dctrl.getLsbD 1

/-- `DLEN.DATALENGTH` (10 R55). -/
def dataLength (dlen : Word) : Nat := (dlen.extractLsb' 0 25).toNat

/-! ### 128-bit registers (42 R239) -/

/-- The register's 128 bits (10 R36). -/
def Reg128.bits (x : Reg128) : BitVec 128 := x.w0 ++ x.w1 ++ x.w2 ++ x.w3

/-- `F(X, hi, lo)` (42 R239). -/
def Reg128.field (x : Reg128) (hi lo : Nat) : BitVec (hi - lo + 1) := x.bits.extractLsb hi lo

/-- The CSD fields common to both layouts (42 R242). -/
def csdCommon (x : Reg128) : CsdCommon where
  csdStruct := x.field 127 126
  sysSpecVersion := x.field 125 122
  reserved1 := x.field 121 120
  taac := x.field 119 112
  nsac := x.field 111 104
  maxBusClkFrec := x.field 103 96
  cardComdClasses := x.field 95 84
  rdBlockLen := x.field 83 80
  partBlockRead := x.field 79 79
  wrBlockMisalign := x.field 78 78
  rdBlockMisalign := x.field 77 77
  dsrImpl := x.field 76 76

/-- The fields of layout V1 (42 R243). -/
def csdV1 (x : Reg128) : CsdV1 where
  reserved2 := x.field 75 74
  deviceSize := x.field 73 62
  maxRdCurrentVDDMin := x.field 61 59
  maxRdCurrentVDDMax := x.field 58 56
  maxWrCurrentVDDMin := x.field 55 53
  maxWrCurrentVDDMax := x.field 52 50
  deviceSizeMul := x.field 49 47

/-- The fields of layout V2 (42 R244). -/
def csdV2 (x : Reg128) : CsdV2 where
  reserved2 := x.field 75 70
  deviceSize := x.field 69 48
  reserved2b := x.field 47 47

/-- The tail fields (42 R245). -/
def csdTail (x : Reg128) : CsdTail where
  eraseGrSize := x.field 46 46
  eraseGrMul := x.field 45 39
  wrProtectGrSize := x.field 38 32
  wrProtectGrEnable := x.field 31 31
  manDeflECC := x.field 30 29
  wrSpeedFact := x.field 28 26
  maxWrBlockLen := x.field 25 22
  writeBlockPaPartial := x.field 21 21
  reserved3 := x.field 20 17
  contentProtectAppli := x.field 16 16
  fileFormatGroup := x.field 15 15
  copyFlag := x.field 14 14
  permWrProtect := x.field 13 13
  tempWrProtect := x.field 12 12
  fileFormat := x.field 11 10
  ecc := x.field 9 8
  csdCRC := x.field 7 1
  reserved4 := x.field 0 0

/-- The CID fields (42 R250). -/
def cidFields (x : Reg128) : Cid where
  manufacturerID := x.field 127 120
  oemAppliID := x.field 119 104
  prodName1 := x.field 103 72
  prodName2 := x.field 71 64
  prodRev := x.field 63 56
  prodSN := x.field 55 24
  reserved1 := x.field 23 20
  manufactDate := x.field 19 8
  cidCRC := x.field 7 1
  reserved2 := x.field 0 0

/-- `CardBlockSize` (42 R246). -/
def blockSizeOf (c : CsdCommon) : CsdLayout → Nat
  | .v1 _ => 2 ^ c.rdBlockLen.toNat
  | .v2 _ => 512

/-- `CardCapacity` in bytes, an exact natural (42 R246). -/
def capacityOf (c : CsdCommon) : CsdLayout → Nat
  | .v1 f => (f.deviceSize.toNat + 1) * 2 ^ (f.deviceSizeMul.toNat + 2) * 2 ^ c.rdBlockLen.toNat
  | .v2 f => (f.deviceSize.toNat + 1) * 524288

/-- The layout of a card type (42 R241): none for an unrecognised class (42 R247). -/
def layoutOf (t : CardType) (x : Reg128) : Option CsdLayout :=
  match t with
  | .standardV1_1 | .standardV2_0 => some (.v1 (csdV1 x))
  | .highCapacity => some (.v2 (csdV2 x))
  | .secureDigitalIO | .secureDigitalIOCombo | .unknown => none

/-! ### The captured words (10 R36, R40) -/

/-- The value of a captured register: all of its words have been written. -/
def RegCells.value (c : RegCells) : Option Reg128 :=
  match c.c0, c.c1, c.c2, c.c3 with
  | some a, some b, some d, some e => some ⟨a, b, d, e⟩
  | _, _, _, _ => none

/-- A register captured whole. -/
def RegCells.written (x : Reg128) : RegCells := ⟨some x.w0, some x.w1, some x.w2, some x.w3⟩

/-- A captured register with its word `k` written. -/
def RegCells.set (c : RegCells) (k : Fin 4) (x : Word) : RegCells :=
  match k with
  | 0 => { c with c0 := some x }
  | 1 => { c with c1 := some x }
  | 2 => { c with c2 := some x }
  | 3 => { c with c3 := some x }

/-- The value of `S.SCR`: both words have been written. -/
def ScrCells.value (c : ScrCells) : Option Scr :=
  match c.c0, c.c1 with
  | some a, some b => some ⟨a, b⟩
  | _, _ => none

/-- An SCR read whole. -/
def ScrCells.written (x : Scr) : ScrCells := ⟨some x.w0, some x.w1⟩

/-- An SCR with its word `k` written. -/
def ScrCells.set (c : ScrCells) (k : Fin 2) (x : Word) : ScrCells :=
  match k with
  | 0 => { c with c0 := some x }
  | 1 => { c with c1 := some x }

/-! ### Reading CardInfo (42 R240, R244): the host's view; an unwritten field is a fault -/

/-- A session value, or the fault of reading an unwritten one (10 R33). -/
def readWritten {α : Type} : Option α → Except Fault α
  | some a => .ok a
  | none => .error .unwrittenSession

/-- The fields of the layout decoded last. -/
def CardInfo.layout (c : CardInfo) : Option CsdLayout :=
  match c.csdKind with
  | some .v1 => c.csdV1.map .v1
  | some .v2 => c.csdV2.map .v2
  | none => none

/-- The V1-only fields of the CSD: reading one after a V2 decode is a fault (42 R244), also where an earlier V1 decode wrote it, whose values are kept
(70 R403; DEDUCED, notes/assumptions/34.md). -/
def CardInfo.v1Fields (c : CardInfo) : Except Fault CsdV1 :=
  match c.layout with
  | some (.v1 f) => .ok f
  | some (.v2 _) | none => .error .unwrittenSession

/-- `Reserved2b`, the one field of layout V2 alone: once a V2 decode has written it, it is read whatever was decoded since (70 R403). -/
def CardInfo.reserved2b (c : CardInfo) : Except Fault (BitVec 1) := readWritten (c.csdV2.map CsdV2.reserved2b)

/-! ### The SCR (43 R283, R284) -/

/-- `bswap` (43 R283). -/
def bswap (x : Word) : Word := x.extractLsb' 0 8 ++ x.extractLsb' 8 8 ++ x.extractLsb' 16 8 ++ x.extractLsb' 24 8

/-- `SCRbit(b)` (43 R284). -/
def scrBit (scr : Scr) (b : Nat) : Bool := if 32 ≤ b then scr.w0.getLsbD (b - 32) else scr.w1.getLsbD b

/-- The requested width is supported: SCR bit 50 (4-bit) or 48 (1-bit) (43 R287). -/
def widthSupported (scr : Scr) : BusWidth → Bool
  | .w1 => scrBit scr 48
  | .w4 => scrBit scr 50

/-! ### The SD status (44 R331) -/

/-- The stream bytes of a FIFO word (20 R85). -/
def fifoBytes (w : Word) : List Byte := wordBytes w

/-- The 512 bits of the SD status: byte 0 holds bits [511:504] (44 R331). -/
def ssrBits (bytes : List Byte) : BitVec 512 := BitVec.ofNat 512 (bytes.foldl (fun n b => n * 256 + b.toNat) 0)

/-- The parsed SD status (44 R331). -/
def sdStatusOf (bytes : List Byte) : SdStatus where
  dataBusWidth := (ssrBits bytes).extractLsb 511 510
  securedMode := (ssrBits bytes).extractLsb 509 509
  cardType := (ssrBits bytes).extractLsb 495 480
  protectedAreaSize := (ssrBits bytes).extractLsb 479 448
  speedClass := (ssrBits bytes).extractLsb 447 440
  performanceMove := (ssrBits bytes).extractLsb 439 432
  allocationUnitSize := (ssrBits bytes).extractLsb 431 428
  eraseSize := (ssrBits bytes).extractLsb 423 408
  eraseTimeout := (ssrBits bytes).extractLsb 407 402
  eraseOffset := (ssrBits bytes).extractLsb 401 400

end Sys2Proof.Machine
end

