-- ==== Sys2Proof/Machine/Ops.lean ====
section
/-! DEFINITION. Ops.lean: the shared operations: the steps of an agent and how they stop, memory (20 R80), the peripheral's registers
(10 R51, 20 R88), the moves of ENV (10 R67), the step boundary (10 R50), the register and Transfer State accesses, the external calls
(10 R66), taking the interrupt and returning from it (60 R370 to R372). -/

namespace Sys2Proof.Machine

/-! ### Running an operation -/

/-- Why an operation's steps stop before its `return`: a fault or refusal (00 R13), or a hold (00 R13) at a position of `HOST`. -/
inductive Stop where
  | fault (f : Fault)
  | refused (r : Refusal)
  | hold (p : Place)
  deriving DecidableEq, Repr

/-- The steps of an agent from one point of its pseudocode to another. -/
abbrev Act (α : Type) : Type := EStateM Stop State α

/-- The operations that a wait of `HOST` stands in, each at its call of the next (41 R221, 43 R285, 44 R331). -/
def Place.callers : Place → List Point
  | .call _ | .delay .host | .scrLoop .host _ | .ssrLoop .host _ | .settleLoop .host _ => []
  | .delay (.sdInit _) => [⟨.sdInit, 4, 0⟩]
  | .scrLoop (.wideBus _ .host) _ => [⟨.wideBusOperationConfig, 4, 0⟩]
  | .scrLoop (.wideBus _ .sdInit) _ => [⟨.sdInit, 11, 1⟩, ⟨.wideBusOperationConfig, 4, 0⟩]
  | .ssrLoop (.getCardStatus _) _ => [⟨.sdGetCardStatus, 1, 0⟩]
  | .settleLoop .sdInit _ => [⟨.sdInit, 11, 1⟩]

/-- Where `HOST` stands at a wait: the head of the loop or the call of `Delay`, in the calls it is in (41 R203, 43 R281, R285, 44 R330). -/
def Place.path (p : Place) : List Point :=
  match p with
  | .call _ => []
  | .delay _ => p.callers ++ [⟨.powerOn, 3, 1⟩]
  | .scrLoop _ _ => p.callers ++ [⟨.findSCR, 8, 0⟩]
  | .ssrLoop _ _ => p.callers ++ [⟨.sendSDStatus, 8, 0⟩]
  | .settleLoop _ _ => p.callers ++ [⟨.wideBusOperationConfig, 10, 0⟩]

/-- `raise Fault(f)` (00 R13). -/
def raise {α : Type} (f : Fault) : Act α := fun s => .error (.fault f) s

/-- `refuse(r)` (00 R13). -/
def refuse {α : Type} (r : Refusal) : Act α := fun s => .error (.refused r) s

/-- `wait until`: `HOST` holds at `p` (00 R13). -/
def hold {α : Type} (p : Place) : Act α := fun s => .error (.hold p) s

/-- `if c: refuse(r)`. -/
def refuseIf (c : Bool) (r : Refusal) : Act Unit := if c then refuse r else pure ()

/-- `if c: raise Fault(f)`. -/
def raiseIf (c : Bool) (f : Fault) : Act Unit := if c then raise f else pure ()

/-- `if c: m`, and the operation goes on. -/
def onlyIf (c : Bool) (m : Act Unit) : Act Unit := if c then m else pure ()

/-- The state. -/
def getState : Act State := fun s => .ok s s

/-- A change of state. -/
def update (f : State → State) : Act Unit := fun s => .ok () (f s)

/-- `try x <- op(...)` followed by the rest (00 R13): a result that is not `Ok` is returned unchanged. -/
def thenOk (op rest : Act Err) : Act Err := do
  let e ← op
  if e = .ok then rest else pure e

/-- The next free value's number (notes/assumptions/9.md). -/
def nextDraw : Act Nat := fun s => .ok s.draws (s.setDraws (s.draws + 1))

/-- A free 32-bit value. -/
def drawWord : Act Word := do
  let n ← nextDraw
  pure (Config.freeWord n)

/-- A free choice. -/
def drawBool : Act Bool := do
  let n ← nextDraw
  pure (Config.freeBool n)

/-- The outcome of the steps of a call of `HOST` that returns an `r`: `S.step` is `Idle` again (10 R49), or `HOST` holds at the head of a wait. -/
def conclude {α : Type} (r : α → Result) (op : Act α) (s : State) : Host.Outcome State Fault Refusal :=
  match op s with
  | .ok a s' => .next (s'.setReturn .idle (r a))
  | .error (.fault f) _ => .fault f
  | .error (.refused x) _ => .refused x
  | .error (.hold p) s' => .next (s'.setHostStep (.inside p p.path))

/-- The call `i` of `HOST`, from its first statement (10 R49). -/
def finish {α : Type} (i : Instr) (r : α → Result) (op : Act α) (s : State) : Host.Outcome State Fault Refusal := conclude r op (s.enter i)

/-- The outcome of steps that are no call of `HOST`: an interrupt entry, or `ENV` and `IRQ` going on between calls. -/
def finishOutside (op : Act Unit) (s : State) : Host.Outcome State Fault Refusal :=
  match op s with
  | .ok _ s' => .next s'
  | .error (.fault f) _ => .fault f
  | .error (.refused x) _ => .refused x
  | .error (.hold p) s' => .next (s'.setHostStep (.inside p p.path))

/-! ### Memory (20 R80) -/

/-- What an unlisted address reads as: DESIGN CHOICE, unsafe (notes/assumptions/13.md). -/
def unlistedByte : Byte := 0

/-- The byte at an address. -/
def Memory.read (a : Nat) : List Host.Cell → Byte
  | [] => unlistedByte
  | (c, b) :: rest => if c = a then b else Memory.read a rest

/-- The list with a byte stored at an address, in canonical form if the list is. -/
def Memory.write (a : Nat) (v : Byte) : List Host.Cell → List Host.Cell
  | [] => if v = unlistedByte then [] else [(a, v)]
  | (c, b) :: rest =>
    if a < c then (if v = unlistedByte then (c, b) :: rest else (a, v) :: (c, b) :: rest)
    else if a = c then (if v = unlistedByte then rest else (a, v) :: rest)
    else (c, b) :: Memory.write a v rest

/-- Every listed address is at least `lo` and they rise strictly; no listed byte equals what an unlisted address reads as. -/
def Memory.wfFrom (lo : Nat) : List Host.Cell → Bool
  | [] => true
  | (c, b) :: rest => decide (lo ≤ c) && b != unlistedByte && Memory.wfFrom (c + 1) rest

/-- The canonical form. -/
def Memory.wf (m : List Host.Cell) : Bool := Memory.wfFrom 0 m

/-- `MemRead(addr, n)`: little-endian, addresses modulo 2^32 (20 R80). -/
def memRead (m : List Host.Cell) (a : Nat) : Nat → Nat
  | 0 => 0
  | n + 1 => (Memory.read (a % 2 ^ 32) m).toNat + 256 * memRead m (a + 1) n

/-- `MemWrite(addr, n, v)`: little-endian, addresses modulo 2^32 (20 R80). -/
def memWrite (m : List Host.Cell) (a : Nat) : Nat → Nat → List Host.Cell
  | 0, _ => m
  | n + 1, v => memWrite (Memory.write (a % 2 ^ 32) (BitVec.ofNat 8 v) m) (a + 1) n (v / 256)

/-- The address is in `P_DMA_REGION` (20 R83). -/
def inDmaRegion (p : Params) (a : Nat) : Bool :=
  decide (a < 2 ^ 32) && p.dmaRegion.any (fun r => decide (r.1 ≤ a) && decide (a < r.1 + r.2))

/-- All bytes `a .. a+n-1` are in `P_DMA_REGION` (44 R302). -/
def allInDmaRegion (p : Params) (a : Nat) : Nat → Bool
  | 0 => true
  | n + 1 => inDmaRegion p a && allInDmaRegion p (a + 1) n

/-- An address lies in a buffer. -/
def Buffer.covers (b : Buffer) (a : Nat) : Bool := decide (b.base ≤ a) && decide (a < b.base + b.len)

/-! ### The register file's addresses (10 R51, 20 R81) -/

/-- The base of an instance (20 R81). -/
def instanceBase : Sdmmc → Word
  | .sdmmc1 => 0x52007000
  | .sdmmc2 => 0x48022400

/-- The byte offset of a register (10 R51). -/
def Reg.offset : Reg → Word
  | .power => 0x00
  | .clkcr => 0x04
  | .argr => 0x08
  | .cmdr => 0x0C
  | .respcmdr => 0x10
  | .resp1 => 0x14
  | .resp2 => 0x18
  | .resp3 => 0x1C
  | .resp4 => 0x20
  | .dtimer => 0x24
  | .dlen => 0x28
  | .dctrl => 0x2C
  | .dcntr => 0x30
  | .sta => 0x34
  | .icr => 0x38
  | .mask => 0x3C
  | .acktimer => 0x40
  | .idmactrl => 0x50
  | .idmabsize => 0x54
  | .idmabase0 => 0x58
  | .idmabase1 => 0x5C
  | .fifo => 0x80

/-- The register at a byte offset from the base of an instance. -/
def Reg.atOffset (o : Word) : Option Reg :=
  [Reg.power, .clkcr, .argr, .cmdr, .respcmdr, .resp1, .resp2, .resp3, .resp4, .dtimer, .dlen, .dctrl, .dcntr, .sta, .icr, .mask, .acktimer,
    .idmactrl, .idmabsize, .idmabase0, .idmabase1, .fifo].find? (fun r => r.offset == o)

/-- The address of a register: the base of its instance plus its offset (20 R81). -/
def registerAddress (i : Sdmmc) (r : Reg) : Word := instanceBase i + r.offset

/-- The register at an address of the register file: a space of its own, not system memory (20 R81). -/
def registerAt (a : Word) : Option (Sdmmc × Reg) :=
  match Reg.atOffset (a - instanceBase .sdmmc1) with
  | some r => some (.sdmmc1, r)
  | none =>
    match Reg.atOffset (a - instanceBase .sdmmc2) with
    | some r => some (.sdmmc2, r)
    | none => none

/-! ### The peripheral (10 R51, 20 R88) -/

/-- A command has been started and has not ended: `CMDR.CPSMEN` (10 R54, R61). -/
def Periph.commandActive (p : Periph) : Bool := hasFlag p.cmdr cpsmen

/-- `DCTRL.DTEN` (10 R55). -/
def Periph.dten (p : Periph) : Bool := p.dctrl.getLsbD 0

/-- "While DCTRL.DTEN = 1 or a command with CMDTRANS = 1 has been sent" (10 R67). -/
def Periph.dataActive (p : Periph) : Bool := p.dten || p.dataSent

/-- `IDMACTRL.IDMAEN` (10 R56). -/
def Periph.idmaen (p : Periph) : Bool := p.idmactrl.getLsbD 0

/-- A polled read is running: `DTEN = 1`, `DTDIR = 1`, `IDMAEN = 0` (10 R67). -/
def Periph.polledRead (p : Periph) : Bool := p.dten && toController p.dctrl && !p.idmaen

/-- `RXFIFOE` follows the receive FIFO: 1 exactly when it holds no word (10 R57, R59, R67). -/
def Periph.syncRx (p : Periph) : Periph :=
  { p with sta := if p.fifo.isEmpty then p.sta ||| rxfifoe else p.sta &&& ~~~rxfifoe }

/-- `RXFIFOE` follows the receive FIFO during a polled read (10 R67). -/
def Periph.keepRx (p : Periph) : Periph := if p.polledRead then p.syncRx else p

/-- The value a register shows, without the side effects of reading it. -/
def Periph.value (p : Periph) : Reg → Word
  | .power => p.power
  | .clkcr => if p.widStale then withWidbus p.clkcr p.widPrev else p.clkcr
  | .argr => p.argr
  | .cmdr => p.cmdr
  | .respcmdr => p.respcmdr
  | .resp1 => p.resp1
  | .resp2 => p.resp2
  | .resp3 => p.resp3
  | .resp4 => p.resp4
  | .dtimer => p.dtimer
  | .dlen => p.dlen
  | .dctrl => p.dctrl
  | .dcntr => p.dcntr
  | .sta => p.sta
  | .icr => p.icr
  | .mask => p.mask
  | .acktimer => p.acktimer
  | .idmactrl => p.idmactrl
  | .idmabsize => p.idmabsize
  | .idmabase0 => p.idmabase0
  | .idmabase1 => p.idmabase1
  | .fifo => p.fifo.headD 0

/-- The side effects of reading a register: a read of `FIFO` removes a word from the receive FIFO (20 R88). -/
def Periph.afterRead (p : Periph) : Reg → Periph
  | .fifo => { p with fifo := p.fifo.tail }.syncRx
  | .power | .clkcr | .argr | .cmdr | .respcmdr | .resp1 | .resp2 | .resp3 | .resp4 | .dtimer | .dlen | .dctrl | .dcntr | .sta
  | .icr | .mask | .acktimer | .idmactrl | .idmabsize | .idmabase0 | .idmabase1 => p

/-- A `CMDTRANS` of 1 is stale (70 R424): it outlives its transfer. After an error branch of the handler the transfer's sources of `MASK` are disabled
(60 R361), after an Abort the IDMA is off too (60 R366), after retry exhaustion the mark of 44 R309 is set. That it also is where the handler ended the
transfer before its command was sent, on a stale `DATAEND` while it was being armed (70 R421), is the model's choice (DESIGN CHOICE,
notes/assumptions/30.md). -/
def Periph.transStale (p : Periph) : Bool := p.exhausted || !p.idmaen || !hasFlag p.mask xferIrqs

/-- A write of a register (10 R51, 20 R88): `ICR` clears flags, `CMDR` with `CPSMEN` starts a command, with `CMDTRANS` too a data phase (which `ENV` may
take as the start of a transfer if that `CMDTRANS` is stale, 93 U21), `DCTRL` with `DTEN` arms the DPSM, `IDMACTRL` with `IDMAEN` the IDMA, each at byte
0, `FIFO` stores a word for the card; a read-only register keeps its value. Arming the DPSM leaves the words of the receive FIFO
(notes/assumptions/31.md: DESIGN CHOICE). -/
def Periph.write (p : Periph) (r : Reg) (v : Word) : Periph :=
  match r with
  | .power => { p with power := v }
  | .clkcr => { p with clkcr := v, widPrev := if widbus v = widbus p.clkcr then p.widPrev else widbus p.clkcr }
  | .argr => { p with argr := v }
  | .cmdr =>
    { p with
      cmdr := v, respOpen := hasFlag v cpsmen, dataSent := p.dataSent || (hasFlag v cpsmen && hasFlag v cmdtrans)
      restartOpen := hasFlag v cpsmen && hasFlag v cmdtrans && p.transStale }
  | .dtimer => { p with dtimer := v }
  | .dlen => { p with dlen := v }
  | .dctrl => if v.getLsbD 0 then { p with dctrl := v, dmaCount := 0 }.syncRx else { p with dctrl := v }
  | .icr => { p with icr := v, sta := clearedBy p.sta v }
  | .mask => { p with mask := v }
  | .acktimer => { p with acktimer := v }
  | .idmactrl =>
    { p with idmactrl := v, dmaCount := if v.getLsbD 0 then 0 else p.dmaCount, exhausted := p.exhausted && !v.getLsbD 0 }.keepRx
  | .idmabsize => { p with idmabsize := v }
  | .idmabase0 => { p with idmabase0 := v }
  | .idmabase1 => { p with idmabase1 := v }
  | .fifo => { p with txFifo := p.txFifo ++ [v] }
  | .respcmdr | .resp1 | .resp2 | .resp3 | .resp4 | .dcntr | .sta => p

/-! ### The moves of ENV (10 R61, R67) -/

/-- A response register is written (10 R67); bit 0 of an R2 frame's payload reads as 0 in `RESP4` (10 R36; notes/assumptions/18.md). -/
def Periph.setResp (p : Periph) (r : RespReg) (v : Word) : Periph :=
  match r with
  | .respcmdr => { p with respcmdr := v }
  | .resp1 => { p with resp1 := v }
  | .resp2 => { p with resp2 := v }
  | .resp3 => { p with resp3 := v }
  | .resp4 => { p with resp4 := if longResponse p.cmdr then v &&& ~~~(1 : Word) else v }

/-- The flags a started command may set: `CMDSENT`, or those of `RESP_WAIT` (10 R67). -/
def Periph.commandFlags (p : Periph) : Word := if noResponse p.cmdr then cmdsent else respWait

/-- Flags of a started command are set; once one is set, the response registers stay as they are (10 R67). A flag that says a long response has come finds
bit 0 of `RESP4` 0, whether or not `ENV` wrote `RESP4` (10 R36; notes/assumptions/18.md). -/
def Periph.setCommandFlags (p : Periph) (flags : Word) : Periph :=
  { p with
    sta := p.sta ||| (flags &&& p.commandFlags), respOpen := p.respOpen && !hasFlag flags p.commandFlags
    resp4 := if longResponse p.cmdr && hasFlag flags (respWait &&& ~~~ctimeout) then p.resp4 &&& ~~~(1 : Word) else p.resp4 }

/-- The data flags `ENV` may set: `DATAEND` of an IDMA read only once all bytes are stored (10 R67, 20 R82). -/
def Periph.dataFlagsAllowed (p : Periph) : Word :=
  if p.idmaen && toController p.dctrl && decide (p.dmaCount < dataLength p.dlen) then dataFlags &&& ~~~dataend
  else dataFlags

/-- A register with its reserved bits replaced by those of `v` (93 U23). -/
def Periph.setReserved (p : Periph) (r : Reg) (v : Word) : Periph :=
  match r with
  | .power => { p with power := (p.power &&& ~~~reservedMask .power) ||| (v &&& reservedMask .power) }
  | .clkcr => { p with clkcr := (p.clkcr &&& ~~~reservedMask .clkcr) ||| (v &&& reservedMask .clkcr) }
  | .cmdr => { p with cmdr := (p.cmdr &&& ~~~reservedMask .cmdr) ||| (v &&& reservedMask .cmdr) }
  | .dlen => { p with dlen := (p.dlen &&& ~~~reservedMask .dlen) ||| (v &&& reservedMask .dlen) }
  | .dctrl => { p with dctrl := (p.dctrl &&& ~~~reservedMask .dctrl) ||| (v &&& reservedMask .dctrl) }
  | .idmactrl => { p with idmactrl := (p.idmactrl &&& ~~~reservedMask .idmactrl) ||| (v &&& reservedMask .idmactrl) }
  | .argr | .respcmdr | .resp1 | .resp2 | .resp3 | .resp4 | .dtimer | .dcntr | .sta | .icr | .mask | .acktimer
  | .idmabsize | .idmabase0 | .idmabase1 | .fifo => p

/-- An address lies in a read buffer or a write buffer that is in use: its transfer is armed and its completion not reported (20 R91). -/
def bufferInUse (d : Dir) (s : State) (a : Nat) : Bool := s.windows.any (fun w => w.dir = d && w.covers a)

/-- A byte that no store of the host makes a draw any more, or that came from no memory address. -/
def SentByte.settled (b : Byte) : SentByte := ⟨b, none⟩

/-- A byte the IDMA sends from address `a`. -/
def sentFrom (s : State) (a : Nat) (b : Byte) : SentByte := ⟨b, if bufferInUse .write s a then some a else none⟩

/-- The byte the card receives from a memory address: a draw where the buffer was raced with or stored without a clean (20 R90, R91). -/
def byteForCard (s : State) (a : Nat) : Byte × State :=
  if s.tainted.contains a then (Config.freeByte s.draws, s.setDraws (s.draws + 1)) else (Memory.read a s.mem, s)

/-- The IDMA stores bytes from the card at `IDMABASE0 + k`, `k` rising, up to `DATALENGTH` bytes (20 R82). -/
def dmaStore (i : Sdmmc) : List Byte → State → State
  | [], s => s
  | b :: rest, s =>
    let p := s.periph i
    if p.dmaCount < dataLength p.dlen then
      dmaStore i rest
        ((s.setMem (Memory.write ((p.idmabase0.toNat + p.dmaCount) % 2 ^ 32) b s.mem)).setPeriph i
          { p with dmaCount := p.dmaCount + 1 })
    else s

/-- The IDMA sends the next `n` bytes of the buffer to the card, up to `DATALENGTH` bytes (20 R82). -/
def dmaSend (i : Sdmmc) : Nat → State → State
  | 0, s => s
  | n + 1, s =>
    let p := s.periph i
    if p.dmaCount < dataLength p.dlen then
      let a := (p.idmabase0.toNat + p.dmaCount) % 2 ^ 32
      let r := byteForCard s a
      dmaSend i n ({ r.2 with sent := r.2.sent ++ [sentFrom s a r.1] }.setPeriph i { p with dmaCount := p.dmaCount + 1 })
    else s

/-- One move of `ENV`; a move the rules do not allow in this state changes nothing (10 R59, R61, R66, R67, 20 R82, R95, 43 R291). 10 R67 names no end of
its liberty that "a command with CMDTRANS = 1 has been sent": it lasts until `ENV` ends it (`dataPhaseEnd`, which clears `DTEN` too) or the controller is
set up again; `ENV` may also clear `DTEN` alone and keep it (`dtenClear`) (DESIGN CHOICE, notes/assumptions/24.md). It conditions only the moves of memory on
`IDMAEN`: words move between the card and the FIFO (`fifoPush`, `fifoSend`) whatever `IDMAEN` is (DESIGN CHOICE, notes/assumptions/18.md). -/
def applyEnv (m : Move) (s : State) : State :=
  match m with
  | .cmdFlags i flags =>
    let p := s.periph i
    if p.commandActive then s.setPeriph i (p.setCommandFlags flags) else s
  | .respond i r v =>
    let p := s.periph i
    if p.commandActive && p.respOpen then s.setPeriph i (p.setResp r v) else s
  | .cmdEnd i =>
    let p := s.periph i
    s.setPeriph i { p with cmdr := p.cmdr &&& ~~~cpsmen }
  | .dataFlags i flags =>
    let p := s.periph i
    if p.dataActive then s.setPeriph i { p with sta := p.sta ||| (flags &&& p.dataFlagsAllowed) } else s
  | .dataPhaseEnd i =>
    let p := s.periph i
    s.setPeriph i { p with dctrl := p.dctrl &&& ~~~(1 : Word), dataSent := false }
  | .dtenClear i =>
    let p := s.periph i
    s.setPeriph i { p with dctrl := p.dctrl &&& ~~~(1 : Word) }
  | .fifoPush i w =>
    let p := s.periph i
    if p.dataActive && toController p.dctrl then s.setPeriph i { p with fifo := p.fifo ++ [w] }.syncRx else s
  | .fifoSend i =>
    let p := s.periph i
    if p.dataActive && !toController p.dctrl then
      { s with sent := s.sent ++ ((p.txFifo.take 1).flatMap fifoBytes).map SentByte.settled }.setPeriph i { p with txFifo := p.txFifo.tail }
    else s
  | .dataRestart i =>
    let p := s.periph i
    if p.commandActive && p.restartOpen then s.setPeriph i { p with dmaCount := 0, restartOpen := false } else s
  | .dmaStore i bytes =>
    let p := s.periph i
    if p.dataActive && toController p.dctrl && p.idmaen then dmaStore i bytes s else s
  | .dmaSend i n =>
    let p := s.periph i
    if p.dataActive && !toController p.dctrl && p.idmaen then dmaSend i n s else s
  | .idmaError i =>
    let p := s.periph i
    if p.idmaen then s.setPeriph i { p with sta := p.sta ||| idmate } else s
  | .dynFlags i flags =>
    let p := s.periph i
    s.setPeriph i { p with sta := (p.sta &&& ~~~dynamicFlags) ||| (flags &&& dynamicFlags) }.keepRx
  | .staleWidbus i stale =>
    let p := s.periph i
    s.setPeriph i { p with widStale := stale }
  | .reservedBits i r v => s.setPeriph i ((s.periph i).setReserved r v)
  | .pin level => { s with pin := level }
  | .delayRuns running => { s with delayRuns := running }
  | .irq _ => s

/-! ### The step boundary (10 R50, 60 R370) -/

/-- What happens between two steps: the moves of one slot in order; `onIrq` says what an entry of `IRQ` does here. -/
def runMoves (onIrq : Sdmmc → Act Unit) : List Move → Act Unit
  | [] => pure ()
  | .irq i :: rest => do
    onIrq i
    runMoves onIrq rest
  | m :: rest => do
    update (applyEnv m)
    runMoves onIrq rest

/-- What happens before the next step of an agent: the next slot of the schedule, nothing once the schedule is used up
(notes/assumptions/2.md). -/
def between (onIrq : Sdmmc → Act Unit) : Act Unit := fun s =>
  match s.sched with
  | [] => .ok () s
  | slot :: rest => runMoves onIrq slot (s.setSched rest)

/-- The agent that runs a pseudocode, what happens at the boundary before each of its steps, and the calls the pseudocode stands in. -/
structure Frame where
  agent : Agent
  between : Act Unit
  callers : List Point

/-- The frame of an operation that the pseudocode calls at `pt`. -/
abbrev Frame.call (b : Frame) (pt : Point) : Frame := { b with callers := b.callers ++ [pt] }

/-- The agent comes to the statement at `pt` (10 R49). -/
def Frame.goto (b : Frame) (pt : Point) : Act Unit := update (fun s => s.moved b.agent (b.callers ++ [pt]))

/-- The agent takes the statements of `proc` at the given lines and parts one after the other: statements that are no step and change nothing but its
position, tests, assignments of local variables, returns (10 R49). -/
def Frame.pass (b : Frame) (proc : Proc) : List (Nat × Nat) → Act Unit
  | [] => pure ()
  | (line, part) :: rest => do
    b.goto ⟨proc, line, part⟩
    b.pass proc rest

/-- The tests on `lines`, one after the other; where the last one `holds`, the statement that it guards on its own line follows. -/
def tests (lines : List Nat) (holds : Bool) : List (Nat × Nat) :=
  lines.map (fun line => (line, 0)) ++ (if holds then [(lines.getLastD 0, 1)] else [])

/-- The agent comes to the step at `pt`, and stands there while the others may step (10 R50). -/
def Frame.step (b : Frame) (pt : Point) : Act Unit := do
  b.goto pt
  b.between

/-- The frame of the handler: `ENV` may step before each of its steps, the handler is not re-entered (60 R357, R370). -/
def irqFrame : Frame := ⟨.irq, between (fun _ => pure ()), []⟩

/-! ### Steps: register accesses, Transfer State accesses, external calls; writes of the session. `b` is the frame of the pseudocode that takes the step at
`pt`. -/

/-- The register that an access to `r` reaches: the one at the base of `S.Instance` plus the offset of `r` (10 R38, 20 R81). -/
def boundRegister (r : Reg) (s : State) : Option (Sdmmc × Reg) := s.session.bound.bind (fun i => registerAt (registerAddress i r))

/-- `RegRead(reg)` (00 R12, 10 R38): a read of the empty FIFO gives any value (93 U19). -/
def regRead (b : Frame) (pt : Point) (r : Reg) : Act Word := do
  b.step pt
  let s ← getState
  match boundRegister r s with
  | none => raise .unbound
  | some (i, r) => do
    let p := s.periph i
    update (fun s => s.setPeriph i (p.afterRead r))
    if r = .fifo && p.fifo.isEmpty then drawWord else pure (p.value r)

/-- `RegWrite(reg, v)` (00 R12, 10 R38). -/
def regWrite (b : Frame) (pt : Point) (r : Reg) (v : Word) : Act Unit := do
  b.step pt
  let s ← getState
  match boundRegister r s with
  | none => raise .unbound
  | some (i, r) => update (fun s => s.setPeriph i ((s.periph i).write r v))

/-- `RegSet(reg, mask)` on a line of `proc`: a read, then a write, two steps (00 R12, 10 R50). -/
def regSet (b : Frame) (proc : Proc) (line : Nat) (r : Reg) (mask : Word) : Act Unit := do
  let v ← regRead b ⟨proc, line, 1⟩ r
  regWrite b ⟨proc, line, 2⟩ r (v ||| mask)

/-- `RegClr(reg, mask)` on a line of `proc`: a read, then a write, two steps (00 R12, 10 R50). -/
def regClr (b : Frame) (proc : Proc) (line : Nat) (r : Reg) (mask : Word) : Act Unit := do
  let v ← regRead b ⟨proc, line, 1⟩ r
  regWrite b ⟨proc, line, 2⟩ r (v &&& ~~~mask)

/-- A write of one Transfer State field, one step (20 R89). -/
def xferWrite (b : Frame) (pt : Point) (f : Transfer → Transfer) : Act Unit := do
  b.step pt
  update (fun s => s.setXfer (f s.xfer))

/-- A read of one Transfer State field, one step (20 R89). -/
def xferRead {α : Type} (b : Frame) (pt : Point) (f : Transfer → α) : Act α := do
  b.step pt
  let s ← getState
  pure (f s.xfer)

/-- `if S.RXCplt = 1 or S.TXCplt = 1: refuse(TransferOutstanding)` on a line of `proc`: the two flags are read one after the other, each in a step of its own
(20 R89, 44 R302, 41 R200, R228). That both are read, `RXCplt` first, is the model's order (DESIGN CHOICE, notes/assumptions/25.md). -/
def refuseOutstanding (b : Frame) (proc : Proc) (line : Nat) : Act Unit := do
  let rx ← xferRead b ⟨proc, line, 1⟩ (fun x => x.rxCplt)
  let tx ← xferRead b ⟨proc, line, 2⟩ (fun x => x.txCplt)
  refuseIf (rx || tx) .transferOutstanding

/-- A write of the session, by `HOST` only (10 R62); it is no step of its own. -/
def sessionWrite (b : Frame) (pt : Point) (f : Session → Session) : Act Unit := do
  b.goto pt
  update (fun s => s.setSession (f s.session))

/-- A register's value stored in the session, on one point: the read is the step (10 R50, R62). -/
def capture (b : Frame) (pt : Point) (r : Reg) (f : Word → Session → Session) : Act Unit := do
  let v ← regRead b pt r
  sessionWrite b pt (f v)

/-- A read of a field that may be unwritten: `Fault(UnwrittenSession)` (10 R33). -/
def readOr {α : Type} (f : State → Option α) : Act α := do
  let s ← getState
  match f s with
  | some a => pure a
  | none => raise .unwrittenSession

/-- `S.CardType`. -/
def readCardType : Act CardType := readOr (fun s => s.session.cardType)

/-- `RCAARG` (30 R106). -/
def readRcaArg : Act Word := do
  let rca ← readOr (fun s => s.session.rca)
  pure (rcaArgument rca)

/-- `PinClockSetup(inst)`: the registers hold their reset values (10 R66, 41 R200). -/
def pinClockSetup (b : Frame) (pt : Point) (i : Sdmmc) : Act Unit := do
  b.step pt
  update (fun s => s.setPeriph i { Periph.reset with clocked := true, routed := (s.periph i).routed })

/-- `IrqEnable(inst)` (10 R66). -/
def irqEnable (b : Frame) (pt : Point) (i : Sdmmc) : Act Unit := do
  b.step pt
  update (fun s => s.setPeriph i { s.periph i with routed := true })

/-- `CacheClean(addr, len)`: bytes of the range that the host has stored reach the card (10 R66, 20 R90). -/
def cacheClean (b : Frame) (pt : Point) (a len : Nat) : Act Unit := do
  b.step pt
  update (fun s => { s with tainted := s.tainted.filter (fun x => !(decide (a ≤ x) && decide (x < a + len))) })

/-- What is left of a buffer without the bytes `a .. a + len - 1`: what lies below them and what lies above. -/
def Buffer.minus (w : Buffer) (a len : Nat) : List Buffer :=
  [{ w with len := min w.len (a - w.base) },
    { w with base := max w.base (a + len), len := w.base + w.len - max w.base (a + len) }].filter (fun x => decide (0 < x.len))

/-- `CacheInvalidate(addr, len)`: the host sees memory in the range again, byte by byte: the rest of a buffer it meets stays stale (10 R66, 20 R90). -/
def cacheInvalidate (b : Frame) (pt : Point) (a len : Nat) : Act Unit := do
  b.step pt
  update (fun s => { s with stale := s.stale.flatMap (fun w => w.minus a len) })

/-- The wait for the collaborator of `Delay`, for at most `n` boundaries before `HOST` holds in its call (70 R423). -/
def delayLoop (b : Frame) (pt : Point) (caller : PowerCaller) : Nat → Act Unit
  | 0 => hold (.delay caller)
  | n + 1 => do
    b.step pt
    let s ← getState
    if s.delayRuns then delayLoop b pt caller n else pure ()

/-- `Delay(ms)`, which `powerOn` calls: no state change, and `HOST` takes no other step until the collaborator returns (10 R66, 70 R423, R430); `ENV` says
when that is, at the boundaries of the schedule. -/
def delay (b : Frame) (pt : Point) (caller : PowerCaller) (_ms : Nat) : Act Unit := do
  let s ← getState
  delayLoop b pt caller (s.sched.length + 1)

/-- `DetectPin()`: the pin's level, which `ENV` sets (10 R66, 93 U18). -/
def detectPin (b : Frame) (pt : Point) : Act Bool := do
  b.step pt
  let s ← getState
  pure s.pin

/-! ### Taking the interrupt, and returning from it (60 R370 to R372) -/

/-- `IRQ` is entered: nothing is saved and no mode changes; the handler stands before its first statement (60 R357, R371). -/
def enterIrq : Act Unit := update (fun s => s.setIrqStep (.inside []))

/-- The handler returns: `HOST` resumes at its next step (60 R372). -/
def leaveIrq : Act Unit := update (fun s => s.setIrqStep .idle)

/-- The interrupt of controller `i` can be taken: pending, routed, and the handler not running (10 R60, 60 R357, R370). -/
def irqReady (s : State) (i : Sdmmc) : Bool :=
  interruptPending (s.periph i).sta (s.periph i).mask && (s.periph i).routed && s.irqStep = .idle

/-- An entry of `IRQ` for controller `i`, running `handler`: the interrupt of the controller that is not bound is refused (60 R356). -/
def runHandler (handler : Act Unit) (i : Sdmmc) : Act Unit := do
  let s ← getState
  if s.session.bound = some i then do
    enterIrq
    handler
    leaveIrq
  else refuse .badCall

/-- A pending interrupt of controller `i` is taken at a step boundary of `HOST` (60 R370); otherwise nothing happens. -/
def takeIrq (handler : Act Unit) (i : Sdmmc) : Act Unit := do
  let s ← getState
  if irqReady s i then runHandler handler i else pure ()

/-! ### The host program's own memory accesses (20 R90, R91) -/

/-- A host load of address `a` gives a draw: it races with an IDMA store, or the buffer was read without cache hooks. -/
def loadIsDraw (s : State) (a : Nat) : Bool :=
  bufferInUse .read s a || s.stale.any (fun w => w.covers a)

/-- A host access to address `a` of a read buffer in use: the host may see stale data of that buffer, until it is invalidated (70 R428). 70 R428 speaks of
the buffer's cache lines and gives no line size: an access counts if its address lies in the buffer, and then the whole buffer is stale (DESIGN CHOICE,
notes/assumptions/23.md). -/
def touch (a : Nat) (s : State) : State :=
  { s with stale := s.windows.filter (fun w => w.dir = .read && w.covers a && !s.stale.contains w) ++ s.stale }

/-- The host program loads a byte. -/
def hostLoad (a : Word) (s : State) : State :=
  let t := touch a.toNat s
  if loadIsDraw s a.toNat then { t.setDraws (s.draws + 1) with hostByte := Config.freeByte s.draws }
  else { t with hostByte := Memory.read a.toNat s.mem }

/-- A host store to address `a` makes what the card is sent from there afterwards a draw: it races with the IDMA, or there are no cache hooks
(20 R90, R91). -/
def storeTaints (s : State) (a : Nat) : Bool := !s.cfg.cacheHooks || bufferInUse .write s a

/-- The bytes the card has received, those among them that came from address `a` of a write buffer in use replaced by draws, the first of them draw `n`
(20 R91), and the number of the next draw. -/
def redraw (a : Nat) : List SentByte → Nat → List SentByte × Nat
  | [], n => ([], n)
  | x :: rest, n =>
    if x.racing = some a then
      let r := redraw a rest (n + 1)
      ({ x with byte := Config.freeByte n } :: r.1, r.2)
    else
      let r := redraw a rest n
      (x :: r.1, r.2)

/-- The host program stores a byte: what the card receives, or has received, from that address of a write buffer in use is a draw (20 R91). -/
def hostStore (a : Word) (v : Byte) (s : State) : State :=
  let t := (touch a.toNat s).setMem (Memory.write a.toNat v s.mem)
  let r := redraw a.toNat s.sent s.draws
  { t with
    tainted := if storeTaints s a.toNat && !s.tainted.contains a.toNat then a.toNat :: s.tainted else s.tainted
    sent := r.1
    draws := r.2 }

end Sys2Proof.Machine
end

