-- ==== Sys2Proof/Machine/Transport.lean ====
section
/-! DEFINITION. Transport.lean: the register transport and the response classifier (40_transport.md). `b` is the frame the operation
runs in: that of `HOST`, or of `IRQ` for the handler's stop command; the points are the lines of its pseudocode. -/

namespace Sys2Proof.Machine

/-- The statements of `decodeR6` after the test on line 4, up to the return of an error (40 R180). -/
def r6Points : Err → List (Nat × Nat)
  | .generalUnknownError => [(4, 1)]
  | .illegalCmd => [(5, 0), (5, 1)]
  | _ => [(5, 0), (6, 0)]

/-- The statements of `decodeCardStatus` after the test on line 1, up to its return: the rounds of the table up to the error found (40 R177). -/
def cardStatusPoints (r : Word) : List (Nat × Nat) :=
  if (r &&& csErrorBits) = 0 then [(1, 1)]
  else (cardStatusTable.takeWhile (fun x => !r.getLsbD x.1)).flatMap (fun _ => [(2, 0), (3, 0)]) ++ [(2, 0), (3, 0), (3, 1)]

/-- `decodeR6` (40 R180): on zero error bits the RCA is latched (40 R184). -/
def decodeR6 (b : Frame) (r : Word) : Act Err := do
  b.pass .decodeR6 [(1, 0)]
  if (r &&& r6ErrorBits) = 0 then do
    sessionWrite b ⟨.decodeR6, 2, 0⟩ (fun x => { x with rca := some (r.extractLsb' 16 16) })
    b.pass .decodeR6 [(3, 0)]
    pure .ok
  else do
    b.pass .decodeR6 ((4, 0) :: r6Points (r6Error r))
    pure (r6Error r)

/-- `decodeCardStatus` (40 R177). -/
def decodeStatus (b : Frame) (r : Word) : Act Err := do
  b.pass .decodeCardStatus ((1, 0) :: cardStatusPoints r)
  pure (decodeCardStatus r)

/-- The checks of `classify` that need no register but `STA` (40 R171 to R173, R175); none if the response itself decides. A response
type above 0 that no rule gives a result is refused at the end of the cascade (30 R102; notes/assumptions/16.md). -/
def classifyFlags (sta : Word) (rt : Int) : Option Err :=
  if rt ≤ 0 then some (if hasFlag sta ctimeout then .timeout else .ok)
  else if rt = 3 then some (if hasFlag sta ctimeout then .timeout else .ok)
  else if hasFlag sta ctimeout then some .timeout
  else if hasFlag sta ccrcfail then some .crcFail
  else if rt = 2 then some .ok
  else none

/-- The statements of `classify` after the test on line 2, up to the return that the flags select, or to the test on line 8 (40 R170). -/
def classifyPoints (sta : Word) (rt : Int) : List (Nat × Nat) :=
  if rt ≤ 0 then [(3, 0)]
  else if rt = 3 then [(4, 0), (5, 0)]
  else (4, 0) :: (if hasFlag sta ctimeout then tests [6] true else if hasFlag sta ccrcfail then tests [6, 7] true else tests [6, 7, 8] (rt = 2))

/-- `classify` (40 R170). -/
def classify (b : Frame) (command : Word) (rt : Int) : Act Err := do
  let sta ← regRead b ⟨.classify, 1, 1⟩ .sta
  b.pass .classify ((2, 0) :: classifyPoints sta rt)
  match classifyFlags sta rt with
  | some e => pure e
  | none => do
    refuseIf (!responseTypeAdmitted rt) .badResponseType
    let rc ← regRead b ⟨.classify, 9, 1⟩ .respcmdr
    if (rc &&& 0x3F) = command then do
      let r ← regRead b ⟨.classify, 10, 1⟩ .resp1
      b.pass .classify [(11, 0)]
      if rt = 1 then decodeStatus (b.call ⟨.classify, 11, 1⟩) r
      else do
        b.pass .classify [(12, 0)]
        decodeR6 (b.call ⟨.classify, 12, 1⟩) r
    else do
      b.pass .classify [(9, 2)]
      pure .illegalCommand

/-- The bounded wait (40 R165, R166): at most `n` reads of `STA`; true if one shows a flag of the wait set. -/
def pollStatus (b : Frame) (wait : Word) : Nat → Act Bool
  | 0 => do
    b.pass .transmitCommand [(8, 0)]
    pure false
  | n + 1 => do
    b.pass .transmitCommand [(8, 0)]
    let sta ← regRead b ⟨.transmitCommand, 9, 1⟩ .sta
    b.pass .transmitCommand [(10, 0), (11, 0)]
    if hasFlag sta wait then do
      b.pass .transmitCommand [(8, 0)]
      pure true
    else pollStatus b wait n

/-- The result of the wait: `classify` once a flag was seen, else `Timeout` (40 R165, R166). -/
def commandResult (b : Frame) (hit : Bool) (command : Word) (rt : Int) : Act Err := do
  b.pass .transmitCommand [(12, 0)]
  if hit then classify (b.call ⟨.transmitCommand, 12, 1⟩) command rt
  else do
    b.pass .transmitCommand [(13, 0)]
    pure .timeout

/-- `transmitCommand` with an admitted response type (40 R161 to R167). A command whose word is written to `CMDR` inside a CMD55 (the stop command of the
handler, 70 R425) takes the mark of 30 R111 from it. -/
def transmitAdmitted (b : Frame) (command argument : Word) (rt : Int) : Act Err := do
  b.pass .transmitCommand [(1, 0)]
  let s ← getState
  regWrite b ⟨.transmitCommand, 2, 1⟩ .icr (clearSetMask s.cfg.clearSet)
  regWrite b ⟨.transmitCommand, 3, 1⟩ .argr argument
  let w ← regRead b ⟨.transmitCommand, 4, 1⟩ .cmdr
  regWrite b ⟨.transmitCommand, 5, 1⟩ .cmdr (commandWord w command rt)
  update (fun s => s.setAppCmd (command = 55))
  b.pass .transmitCommand [(6, 0), (7, 0), (7, 1)]
  let hit ← pollStatus b (waitSet rt) s.cfg.cmdBudget
  let e ← commandResult b hit command rt
  regWrite b ⟨.transmitCommand, 14, 1⟩ .icr (clearSetMask s.cfg.clearSet)
  update (fun s => s.setAppCmd (s.appCmd && e = .ok))
  b.pass .transmitCommand [(15, 0)]
  pure e

/-- `transmitCommand` (40 R165). -/
def transmitCommand (b : Frame) (command argument : Word) (rt : Int) : Act Err :=
  if responseTypeAdmitted rt then transmitAdmitted b command argument rt else refuse .badResponseType

end Sys2Proof.Machine
end

