-- ==== Sys2Proof/Machine/Handler.lean ====
section
/-! DEFINITION. Handler.lean: the interrupt completion handler (60 R360 to R365) and the frame of `HOST`, at whose step boundaries a
pending interrupt may be taken (60 R370). -/

namespace Sys2Proof.Machine

/-- Clearing the in-progress flag of a direction (60 R362, 44 R309). -/
def clearInProgress (d : Dir) (x : Transfer) : Transfer :=
  match d with
  | .read => { x with rxCplt := false }
  | .write => { x with txCplt := false }

/-- Setting the in-progress flag of a direction (44 R305). -/
def setInProgress (d : Dir) (x : Transfer) : Transfer :=
  match d with
  | .read => { x with rxCplt := true }
  | .write => { x with txCplt := true }

/-- The in-progress flag of a direction (10 R45). -/
def inProgress (d : Dir) (x : Transfer) : Bool :=
  match d with
  | .read => x.rxCplt
  | .write => x.txCplt

/-- Recording an error (60 R363, R364). -/
def recordError (b : Frame) (pt : Point) (e : Err) : Act Unit := xferWrite b pt (fun x => { x with error := e })

/-- `S.Operation`, one step; unwritten is a fault (60 R362). -/
def readOperation (b : Frame) (pt : Point) : Act Operation := do
  b.step pt
  readOr (fun s => s.xfer.operation)

/-- The stop command of a multi-block transfer, its result discarded (60 R362). -/
def stopCommand (b : Frame) : Act Unit := do
  let _ ← transmitCommand (b.call ⟨.irqHandler, 7, 0⟩) 12 0 1
  pure ()

/-- The transfer-end branch (60 R362). -/
def transferEnd (b : Frame) : Act Unit := do
  regClr b .irqHandler 4 .cmdr cmdtrans
  regWrite b ⟨.irqHandler, 5, 1⟩ .idmactrl 0
  let op ← readOperation b ⟨.irqHandler, 6, 1⟩
  onlyIf (op.count = .multiple) (stopCommand b)
  let op ← readOperation b ⟨.irqHandler, 8, 1⟩
  xferWrite b ⟨.irqHandler, 8, 2⟩ (clearInProgress op.dir)
  xferWrite b ⟨.irqHandler, 9, 1⟩ (fun x => { x with complete := true })
  recordError b ⟨.irqHandler, 10, 1⟩ .ok

/-- The line of the handler that records an error of its last four branches. -/
def errorLine : Err → Nat
  | .dataCrcFail => 14
  | .dataTimeout => 15
  | .rxOverrun => 16
  | _ => 17

/-- The lines of the handler's tests after line 11, up to the one that holds, or all of them. -/
def errorLines : Option Err → List Nat
  | some .dataCrcFail => [14]
  | some .dataTimeout => [14, 15]
  | some .rxOverrun => [14, 15, 16]
  | some _ | none => [14, 15, 16, 17]

/-- The branch of the handler that the status read at entry selects: transfer end, DMA error, data error, in that order (60 R360). -/
def handleEvent (b : Frame) (sta : Word) : Act Unit := do
  b.pass .irqHandler [(3, 0)]
  if hasFlag sta dataend then transferEnd b
  else do
    b.pass .irqHandler [(11, 0)]
    if hasFlag sta idmate then do
      regWrite b ⟨.irqHandler, 12, 1⟩ .idmactrl 0
      recordError b ⟨.irqHandler, 13, 1⟩ .idmaError
    else do
      b.pass .irqHandler (tests (errorLines (handlerError sta)) false)
      match handlerError sta with
      | some e => recordError b ⟨.irqHandler, errorLine e, 1⟩ e
      | none => pure ()

/-- The handler (60 R360). -/
def irqHandler : Act Unit := do
  let sta ← regRead irqFrame ⟨.irqHandler, 1, 1⟩ .sta
  regClr irqFrame .irqHandler 2 .mask xferIrqs
  handleEvent irqFrame sta
  regWrite irqFrame ⟨.irqHandler, 18, 1⟩ .icr staticFlags

/-- The frame of `HOST`: between its steps `ENV` may step, and a pending interrupt may be taken (60 R370). -/
def hostFrame : Frame := ⟨.host, between (takeIrq irqHandler), []⟩

/-- `SDMMC1_IRQHandler` (30 R130, 60 R356). -/
def execSdmmc1IRQHandler (s : State) : Host.Outcome State Fault Refusal := finishOutside (runHandler irqHandler .sdmmc1) s

/-- `SDMMC2_IRQHandler` (30 R130, 60 R356). -/
def execSdmmc2IRQHandler (s : State) : Host.Outcome State Fault Refusal := finishOutside (runHandler irqHandler .sdmmc2) s

end Sys2Proof.Machine
end

