-- ==== Sys2Proof/Machine/BusConfig.lean ====
section
/-! DEFINITION. BusConfig.lean: the polled reads through the data path (43 R281, 44 R330), the wide-bus negotiation and the settle loop
(43_bus_config.md). A wait without a budget (70 R423) holds at its position when the schedule is used up; the next step of the model
goes on from there. -/

namespace Sys2Proof.Machine

/-- Where a polled read stands in its pseudocode, in whose lines 8 to 11 its loop is: the reads of the FIFO in the loop and in the drain, the lines of the
tests of the status word, of `e <- Ok`, of the drain's test, of the final clear and of the test of the result. -/
structure ReadPoints where
  proc : Proc
  take : Point
  errors : List Nat
  fine : Nat
  drain : Nat
  drained : Point
  clear : Nat
  result : Nat
  deriving DecidableEq, Repr

/-- The polled read of `findSCR` (43 R281). -/
def scrPoints : ReadPoints where
  proc := .findSCR
  take := ⟨.findSCR, 12, 1⟩
  errors := [13, 14, 15]
  fine := 17
  drain := 18
  drained := ⟨.findSCR, 19, 1⟩
  clear := 20
  result := 21

/-- The polled read of `sendSDStatus` (44 R330). -/
def ssrPoints : ReadPoints where
  proc := .sendSDStatus
  take := ⟨.sendSDStatus, 11, 1⟩
  errors := [12, 13, 14]
  fine := 16
  drain := 17
  drained := ⟨.sendSDStatus, 17, 2⟩
  clear := 18
  result := 19

/-- The statements after the loop of a polled read that chose the result `e`: its tests up to the one that holds (43 R281, 44 R330). -/
def ReadPoints.outcome (pts : ReadPoints) : Err → List (Nat × Nat)
  | .dataTimeout => tests (pts.errors.take 1) true
  | .dataCrcFail => tests (pts.errors.take 2) true
  | .rxOverrun => tests pts.errors true
  | _ => tests pts.errors false ++ [(pts.fine, 0)]

/-- The FIFO loop of a polled read (43 R281, R282, 44 R330), at most `n` iterations before `HOST` holds at `at_ words`: the status word that
ended the read, and the words received. -/
def fifoLoop (b : Frame) (pts : ReadPoints) (limit : Nat) (at_ : List Word → Place) : Nat → List Word → Act (Word × List Word)
  | 0, words => hold (at_ words)
  | n + 1, words => do
    b.pass pts.proc [(8, 0)]
    let sta ← regRead b ⟨pts.proc, 9, 1⟩ .sta
    b.pass pts.proc [(10, 0)]
    if hasFlag sta pollEnd then do
      b.pass pts.proc [(10, 1)]
      pure (sta, words)
    else do
      b.pass pts.proc [(11, 0)]
      if !hasFlag sta rxfifoe && words.length < limit then do
        let w ← regRead b pts.take .fifo
        fifoLoop b pts limit at_ n (words ++ [w])
      else fifoLoop b pts limit at_ n words

/-- The drain after `DATAEND` (43 R281, 44 R330): at most `n` more words. -/
def fifoDrain (b : Frame) (pts : ReadPoints) : Nat → List Word → Act (List Word)
  | 0, words => do
    b.pass pts.proc [(pts.drain, 0)]
    pure words
  | n + 1, words => do
    let sta ← regRead b ⟨pts.proc, pts.drain, 1⟩ .sta
    if hasFlag sta rxfifoe then pure words
    else do
      let w ← regRead b pts.drained .fifo
      fifoDrain b pts n (words ++ [w])

/-- The drain, made only after a read that ended without an error (43 R281, 44 R330). -/
def drainAfter (b : Frame) (pts : ReadPoints) (e : Err) (limit : Nat) (words : List Word) : Act (List Word) := do
  b.pass pts.proc (pts.outcome e)
  if e = .ok then fifoDrain b pts (limit - words.length) words else pure words

/-- A polled read from its FIFO loop to the final clear (43 R281, 44 R330): its result and the words received. -/
def polledRead (b : Frame) (pts : ReadPoints) (limit : Nat) (at_ : List Word → Place) (words : List Word) : Act (Err × List Word) := do
  let s ← getState
  let (sta, words) ← fifoLoop b pts limit at_ (s.sched.length + limit + 1) words
  let words ← drainAfter b pts (pollError sta) limit words
  regWrite b ⟨pts.proc, pts.clear, 1⟩ .icr staticFlags
  b.pass pts.proc (tests [pts.result] (pollError sta ≠ .ok))
  pure (pollError sta, words)

/-- `n` words not received: each is a draw (43 R283, 44 R330). -/
def missingWords : Nat → Act (List Word)
  | 0 => pure []
  | n + 1 => do
    let w ← drawWord
    let rest ← missingWords n
    pure (w :: rest)

/-- The words of a polled read, those not received drawn. -/
def padWords (limit : Nat) (words : List Word) : Act (List Word) := do
  let rest ← missingWords (limit - words.length)
  pure (words ++ rest)

/-- Setting up a polled read: timeout, length, control, lines 3 to 5 of `proc` (43 R281, 44 R330). -/
def armPolledRead (b : Frame) (proc : Proc) (length control : Word) : Act Unit := do
  let s ← getState
  regWrite b ⟨proc, 3, 1⟩ .dtimer s.cfg.dtimer
  regWrite b ⟨proc, 4, 1⟩ .dlen length
  regWrite b ⟨proc, 5, 1⟩ .dctrl control

/-! ### findSCR (43 R281) -/

/-- `findSCR` from its FIFO loop on, with the words received so far; the SCR's assembly is 43 R283. -/
def scrFrom (b : Frame) (caller : ScrCaller) (words : List Word) : Act Err := do
  let (e, words) ← polledRead b scrPoints 2 (.scrLoop caller) words
  if e = .ok then do
    let words ← padWords 2 words
    sessionWrite b ⟨.findSCR, 22, 0⟩ (fun x => { x with scr := x.scr.set 0 (bswap (words.getD 0 0)) })
    sessionWrite b ⟨.findSCR, 22, 1⟩ (fun x => { x with scr := x.scr.set 1 (bswap (words.getD 1 0)) })
    b.pass .findSCR [(23, 0)]
    pure .ok
  else pure e

/-- `findSCR` (43 R281). -/
def findSCR (b : Frame) (caller : ScrCaller) : Act Err :=
  thenOk (transmitCommand (b.call ⟨.findSCR, 1, 0⟩) 16 8 1) (do
    let a ← readRcaArg
    thenOk (transmitCommand (b.call ⟨.findSCR, 2, 0⟩) 55 a 1) (do
      armPolledRead b .findSCR 8 scrControl
      thenOk (transmitCommand (b.call ⟨.findSCR, 6, 0⟩) 51 0 1) (do
        b.pass .findSCR [(7, 0)]
        scrFrom b caller [])))

/-! ### wideBusOperationConfig (43 R285) -/

/-- The settle loop (43 R290), at most `n` iterations before `HOST` holds. -/
def settleLoop (b : Frame) (caller : WideCaller) (code : BitVec 2) : Nat → Act Err
  | 0 => hold (.settleLoop caller code)
  | n + 1 => do
    b.pass .wideBusOperationConfig [(10, 0)]
    let c ← regRead b ⟨.wideBusOperationConfig, 11, 1⟩ .clkcr
    regWrite b ⟨.wideBusOperationConfig, 12, 1⟩ .clkcr (withWidbus c code)
    let back ← regRead b ⟨.wideBusOperationConfig, 13, 1⟩ .clkcr
    if widbus back = code then do
      b.pass .wideBusOperationConfig [(14, 0)]
      pure .ok
    else settleLoop b caller code n

/-- The settle loop with as many iterations as the schedule can make it take (43 R291). -/
def settle (b : Frame) (caller : WideCaller) (code : BitVec 2) : Act Err := do
  let s ← getState
  settleLoop b caller code (s.sched.length + 1)

/-- `wideBusOperationConfig` after its `findSCR` has given `Ok` (43 R287, R288, R290). -/
def wideBusAfterScr (b : Frame) (caller : WideCaller) (w : BusWidth) : Act Err := do
  let scr ← readOr (fun s => s.session.scr.value)
  b.pass .wideBusOperationConfig [(5, 0), (6, 0)]
  if widthSupported scr w then do
    let a ← readRcaArg
    thenOk (transmitCommand (b.call ⟨.wideBusOperationConfig, 7, 0⟩) 55 a 1)
      (thenOk (transmitCommand (b.call ⟨.wideBusOperationConfig, 8, 0⟩) 6 (widthArgument w) 1) (do
        b.pass .wideBusOperationConfig [(9, 0)]
        settle b caller (widbusCode w)))
  else do
    b.pass .wideBusOperationConfig [(6, 1)]
    pure .requestNotApplicable

/-- `wideBusOperationConfig` (43 R285). -/
def wideBusOperationConfig (b : Frame) (caller : WideCaller) (mode : BusMode) : Act Err := do
  let t ← readCardType
  b.pass .wideBusOperationConfig [(1, 0)]
  if t = .standardV1_1 ∨ t = .standardV2_0 ∨ t = .highCapacity then do
    b.pass .wideBusOperationConfig (tests [2] (mode = .w8))
    if mode = .w8 then pure .unsupportedFeature
    else do
      let r ← regRead b ⟨.wideBusOperationConfig, 3, 1⟩ .resp1
      if r.getLsbD 25 then do
        b.pass .wideBusOperationConfig [(3, 2)]
        pure .lockUnlockFailed
      else thenOk (findSCR (b.call ⟨.wideBusOperationConfig, 4, 0⟩) (.wideBus mode caller)) (wideBusAfterScr b caller (widthOfMode mode))
  else do
    b.pass .wideBusOperationConfig [(1, 1)]
    pure .unsupportedFeature

/-- `findSCR` (30 R130, 43 R281). -/
def execFindSCR (s : State) : Host.Outcome State Fault Refusal := finish .findSCR .err (findSCR hostFrame .host) s

/-- `wideBusOperationConfig` (30 R130, 43 R285). -/
def execWideBusOperationConfig (mode : BusMode) (s : State) : Host.Outcome State Fault Refusal :=
  finish (.wideBusOperationConfig mode) .err (wideBusOperationConfig hostFrame .host mode) s

end Sys2Proof.Machine
end

