-- ==== Sys2Proof/Machine/RegisterDecoder.lean ====
section
/-! DEFINITION. RegisterDecoder.lean: the CSD and CID bit-field extractor (42_register_decoder.md). It makes no register access and sends
no command (42 R252). -/

namespace Sys2Proof.Machine

/-- The layout fields of a decode (42 R243, R244); those of the other layout are not written, so they keep their values (70 R403; notes/assumptions/34.md). -/
def CardInfo.withLayout (c : CardInfo) : CsdLayout → CardInfo
  | .v1 f => { c with csdKind := some .v1, csdV1 := some f }
  | .v2 f => { c with csdKind := some .v2, csdV2 := some f }

/-- `CardCapacity` and `CardBlockSize` of a decoded CSD (42 R246). -/
def CardInfo.withSizes (c : CardInfo) (x : Reg128) (l : CsdLayout) : CardInfo :=
  { c with cardCapacity := some (capacityOf (Machine.csdCommon x) l), cardBlockSize := some (blockSizeOf (Machine.csdCommon x) l) }

/-- No decoded field of `S.CardInfo` is valid (42 R240). -/
def CardInfo.undecoded (c : CardInfo) : CardInfo :=
  { c with csdCommon := none, csdKind := none, csdV1 := none, csdV2 := none, csdTail := none, cid := none, cardCapacity := none, cardBlockSize := none }

/-- The statements of `decodeCSD` that choose the layout, after the test on line 1 (42 R241). -/
def layoutPoints : CardType → List (Nat × Nat)
  | .standardV1_1 | .standardV2_0 => [(1, 1)]
  | .highCapacity => [(2, 0), (2, 1)]
  | .secureDigitalIO | .secureDigitalIOCombo | .unknown => [(2, 0), (3, 0)]

/-- A write of `S.CardInfo`. -/
def cardInfoWrite (b : Frame) (pt : Point) (f : CardInfo → CardInfo) : Act Unit := sessionWrite b pt (fun n => { n with cardInfo := f n.cardInfo })

/-- The writes of `decodeCSD` in a layout (42 R241 to R246). -/
def writeCsd (b : Frame) (x : Reg128) (l : CsdLayout) : Act Unit := do
  cardInfoWrite b ⟨.decodeCSD, 4, 0⟩ (fun c => { c with csdCommon := some (csdCommon x) })
  cardInfoWrite b ⟨.decodeCSD, 5, 0⟩ (fun c => c.withLayout l)
  cardInfoWrite b ⟨.decodeCSD, 6, 0⟩ (fun c => { c with csdTail := some (csdTail x) })
  cardInfoWrite b ⟨.decodeCSD, 7, 0⟩ (fun c => c.withSizes x l)
  b.pass .decodeCSD [(8, 0)]

/-- `decodeCSD` (42 R241): an unrecognised class writes nothing (42 R247). -/
def decodeCSD (b : Frame) : Act Err := do
  let t ← readCardType
  b.pass .decodeCSD ((1, 0) :: layoutPoints t)
  if t = .standardV1_1 ∨ t = .standardV2_0 ∨ t = .highCapacity then do
    let x ← readOr (fun s => s.session.csd.value)
    match layoutOf t x with
    | some l => do
      writeCsd b x l
      pure .ok
    | none => pure .unsupportedFeature
  else pure .unsupportedFeature

/-- `decodeCID` (42 R250). -/
def decodeCID (b : Frame) : Act Err := do
  let x ← readOr (fun s => s.session.cid.value)
  cardInfoWrite b ⟨.decodeCID, 1, 0⟩ (fun c => { c with cid := some (cidFields x) })
  b.pass .decodeCID [(2, 0)]
  pure .ok

/-- `SD_GetCardInfo` (42 R240): after a failing decode only the two copies are valid. -/
def sdGetCardInfo (b : Frame) : Act Err := do
  let t ← readCardType
  cardInfoWrite b ⟨.sdGetCardInfo, 1, 0⟩ (fun c => { c with cardType := some t })
  let rca ← readOr (fun s => s.session.rca)
  cardInfoWrite b ⟨.sdGetCardInfo, 2, 0⟩ (fun c => { c with rca := some rca })
  let e ← decodeCSD (b.call ⟨.sdGetCardInfo, 3, 0⟩)
  if e = .ok then do
    let _ ← decodeCID (b.call ⟨.sdGetCardInfo, 4, 0⟩)
    b.pass .sdGetCardInfo [(5, 0)]
    pure .ok
  else do
    cardInfoWrite b ⟨.sdGetCardInfo, 3, 0⟩ CardInfo.undecoded
    pure e

/-- `SD_GetCardInfo` (30 R130, 42 R240). -/
def execSdGetCardInfo (s : State) : Host.Outcome State Fault Refusal := finish .sdGetCardInfo .err (sdGetCardInfo hostFrame) s

/-- `decodeCSD` (30 R130, 42 R241). -/
def execDecodeCSD (s : State) : Host.Outcome State Fault Refusal := finish .decodeCSD .err (decodeCSD hostFrame) s

/-- `decodeCID` (30 R130, 42 R250). -/
def execDecodeCID (s : State) : Host.Outcome State Fault Refusal := finish .decodeCID .err (decodeCID hostFrame) s

end Sys2Proof.Machine
end

