-- ==== Sys2Proof/Machine/Negotiation.lean ====
section
/-! DEFINITION. Negotiation.lean: binding, detection and the card-initialization sequence (41_negotiation.md). -/

namespace Sys2Proof.Machine

/-- `SD_Initialize_LL` (41 R200). The mark of an accepted CMD55 stays as it was (DESIGN CHOICE, notes/assumptions/7.md). -/
def sdInitializeLL (b : Frame) (sel : Sdmmc) : Act Unit := do
  refuseOutstanding b .sdInitializeLL 0
  sessionWrite b ⟨.sdInitializeLL, 1, 0⟩ (fun x => { x with bound := some sel })
  pinClockSetup b ⟨.sdInitializeLL, 2, 1⟩ sel
  irqEnable b ⟨.sdInitializeLL, 3, 1⟩ sel
  sessionWrite b ⟨.sdInitializeLL, 4, 0⟩ (fun x => { x with powered := false })

/-- `SD_IsDetected` (41 R201). -/
def sdIsDetected (b : Frame) : Act Bool := do
  let s ← getState
  if s.cfg.detect then do
    let level ← detectPin b ⟨.sdIsDetected, 1, 1⟩
    pure (level = s.cfg.detectLevel)
  else do
    b.pass .sdIsDetected [(1, 0)]
    pure true

/-- The capacity class after a ready OCR (41 R209). -/
def capacityClass (b : Frame) (ocr : Word) : Act Err := do
  b.pass .powerOn [(21, 0)]
  onlyIf (ocr.getLsbD 30) (sessionWrite b ⟨.powerOn, 21, 1⟩ (fun x => { x with cardType := some .highCapacity }))
  b.pass .powerOn [(22, 0)]
  pure .ok

/-- The operating-condition loop with `n` trials left (41 R203, R207): a card ready on the last trial is a draw (41 R208). -/
def voltageTrials (b : Frame) : Nat → Act Err
  | 0 => do
    b.pass .powerOn [(12, 0), (18, 0), (18, 1)]
    pure .invalidVoltageRange
  | n + 1 => do
    b.pass .powerOn [(12, 0)]
    thenOk (transmitCommand (b.call ⟨.powerOn, 13, 0⟩) 55 0 1) (do
      let capArg ← readOr (fun s => s.session.capArg)
      thenOk (transmitCommand (b.call ⟨.powerOn, 14, 0⟩) 41 (acmd41Argument capArg) 3) (do
        let ocr ← regRead b ⟨.powerOn, 15, 1⟩ .resp1
        b.pass .powerOn [(16, 0), (17, 0)]
        if ocr.getLsbD 31 then do
          b.pass .powerOn [(12, 0), (18, 0), (19, 0)]
          if n = 0 then do
            b.pass .powerOn [(20, 0)]
            let turnedAway ← drawBool
            if turnedAway then do
              b.pass .powerOn [(20, 1)]
              pure .invalidVoltageRange
            else capacityClass b ocr
          else capacityClass b ocr
        else voltageTrials b n))

/-- The interface-condition probe (41 R206): a failure is not returned. -/
def interfaceProbe (b : Frame) : Act Unit := do
  let e ← transmitCommand (b.call ⟨.powerOn, 7, 0⟩) 8 checkPattern 3
  onlyIf (e = .ok) (do
    sessionWrite b ⟨.powerOn, 8, 0⟩ (fun x => { x with cardType := some .standardV2_0 })
    sessionWrite b ⟨.powerOn, 9, 0⟩ (fun x => { x with capArg := some highCapacityRequest }))

/-- `powerOn` from its `Delay` on (41 R203). -/
def powerOnSettled (b : Frame) (caller : PowerCaller) : Act Err := do
  let s ← getState
  delay b ⟨.powerOn, 3, 1⟩ caller s.cfg.settleMs
  sessionWrite b ⟨.powerOn, 4, 0⟩ (fun x => { x with cardType := some .standardV1_1 })
  sessionWrite b ⟨.powerOn, 5, 0⟩ (fun x => { x with capArg := some 0 })
  thenOk (transmitCommand (b.call ⟨.powerOn, 6, 0⟩) 0 0 0) (do
    interfaceProbe b
    thenOk (transmitCommand (b.call ⟨.powerOn, 10, 0⟩) 55 0 1) (do
      b.pass .powerOn [(11, 0), (11, 1)]
      voltageTrials b s.cfg.maxVoltTrial))

/-- `powerOn` (41 R203). -/
def powerOn (b : Frame) (caller : PowerCaller) : Act Err := do
  regSet b .powerOn 1 .power 3
  sessionWrite b ⟨.powerOn, 2, 0⟩ (fun x => { x with powered := true })
  powerOnSettled b caller

/-- The capture of the four response registers, `RESP1` first, each stored by a statement of its own, on two lines of `initializeCard` from `line` on
(10 R36, 41 R210). -/
def captureWords (b : Frame) (line : Nat) (store : Fin 4 → Word → Session → Session) : Act Unit := do
  capture b ⟨.initializeCard, line, 1⟩ .resp1 (store 0)
  capture b ⟨.initializeCard, line, 2⟩ .resp2 (store 1)
  capture b ⟨.initializeCard, line + 1, 1⟩ .resp3 (store 2)
  capture b ⟨.initializeCard, line + 1, 2⟩ .resp4 (store 3)

/-- The write of word `k` of `S.CID` (41 R212). -/
def storeCid (k : Fin 4) (v : Word) (x : Session) : Session := { x with cid := x.cid.set k v }

/-- The write of word `k` of `S.CSD` (41 R214). -/
def storeCsd (k : Fin 4) (v : Word) (x : Session) : Session := { x with csd := x.csd.set k v }

/-- `SDFAMILY` (41 R213). -/
def sdFamily : CardType → Bool
  | .standardV1_1 | .standardV2_0 | .highCapacity | .secureDigitalIOCombo => true
  | .secureDigitalIO | .unknown => false

/-- CMD9 and the capture of the CSD (41 R214). -/
def captureCsd (b : Frame) : Act Err := do
  let a ← readRcaArg
  thenOk (transmitCommand (b.call ⟨.initializeCard, 7, 0⟩) 9 a 2) (do
    captureWords b 8 storeCsd
    b.pass .initializeCard [(10, 0)]
    pure .ok)

/-- `initializeCard` (41 R210). -/
def initializeCard (b : Frame) : Act Err := do
  let p ← regRead b ⟨.initializeCard, 1, 1⟩ .power
  if p.extractLsb' 0 2 = 0 then do
    b.pass .initializeCard [(1, 2)]
    pure .requestNotApplicable
  else thenOk (transmitCommand (b.call ⟨.initializeCard, 2, 0⟩) 2 0 2) (do
    captureWords b 3 storeCid
    let t ← readCardType
    b.pass .initializeCard [(5, 0)]
    if sdFamily t then thenOk (transmitCommand (b.call ⟨.initializeCard, 6, 0⟩) 3 0 6) (captureCsd b) else captureCsd b)

/-- CMD7, the select (41 R224). -/
def selectCard (b : Frame) : Act Err := do
  let a ← readRcaArg
  transmitCommand (b.call ⟨.sdInit, 7, 1⟩) 7 a 1

/-- The operating clock (41 R226). -/
def operatingClock (b : Frame) (clockDivider : Word) : Act Err := do
  let c ← regRead b ⟨.sdInit, 9, 1⟩ .clkcr
  regWrite b ⟨.sdInit, 10, 1⟩ .clkcr (withClkdiv c clockDivider)
  pure .ok

/-- The slow clock and the polarity bit (41 R222). -/
def slowClock (b : Frame) : Act Unit := do
  let s ← getState
  regWrite b ⟨.sdInit, 2, 1⟩ .clkcr (s.cfg.initClkdiv.setWidth 32)
  regSet b .sdInit 3 .power (1 <<< s.cfg.polarity)

/-- `if e = Ok: e <- op` on a line of `SD_Init` (41 R221, R225). -/
def ifOk (b : Frame) (line : Nat) (e : Err) (op : Act Err) : Act Err := do
  b.pass .sdInit [(line, 0)]
  if e = .ok then op else pure e

/-- The stages of `SD_Init` after its `powerOn` has given `e`, with short-circuit (41 R221, R225). -/
def sdInitAfterPower (b : Frame) (clockDivider : Word) (e : Err) : Act Err := do
  let s ← getState
  let e ← ifOk b 5 e (initializeCard (b.call ⟨.sdInit, 5, 1⟩))
  let e ← ifOk b 6 e (sdGetCardInfo (b.call ⟨.sdInit, 6, 1⟩))
  let e ← ifOk b 7 e (selectCard b)
  let e ← ifOk b 8 e (operatingClock b clockDivider)
  ifOk b 11 e (wideBusOperationConfig (b.call ⟨.sdInit, 11, 1⟩) .sdInit (modeOfWidth s.cfg.busWidth))

/-- The stages of `SD_Init` after the card was found present (41 R221). -/
def sdInitStages (b : Frame) (clockDivider : Word) : Act Err := do
  slowClock b
  let e ← powerOn (b.call ⟨.sdInit, 4, 0⟩) (.sdInit clockDivider)
  sdInitAfterPower b clockDivider e

/-- The result of `SD_Init`: every error is `false` (41 R221, 60 R351). -/
def sdInitResult (b : Frame) (e : Err) : Act Bool := do
  b.pass .sdInit [(12, 0)]
  pure (e = .ok)

/-- `SD_Init` (41 R221). 41 R226 and 30 R131 refuse a clock divider of 1024 or more, 41 R228 a call while a transfer is in progress, and no rule says which
comes first: where both apply the refusal is `badCall` (DESIGN CHOICE, notes/assumptions/33.md). -/
def sdInit (b : Frame) (clockDivider : Word) : Act Bool := do
  refuseIf (!clockDividerInRange clockDivider) .badCall
  refuseOutstanding b .sdInit 0
  let present ← sdIsDetected (b.call ⟨.sdInit, 1, 0⟩)
  if present then do
    let e ← sdInitStages b clockDivider
    sdInitResult b e
  else do
    b.pass .sdInit [(1, 1)]
    pure false

/-- `SD_Initialize_LL` (30 R130, 41 R200): it returns nothing. -/
def execSdInitializeLL (sel : Sdmmc) (s : State) : Host.Outcome State Fault Refusal :=
  finish (.sdInitializeLL sel) (fun _ => .none) (sdInitializeLL hostFrame sel) s

/-- `SD_Init` (30 R130, 41 R221). -/
def execSdInit (clockDivider : Word) (s : State) : Host.Outcome State Fault Refusal :=
  finish (.sdInit clockDivider) .bool (sdInit hostFrame clockDivider) s

/-- `SD_IsDetected` (30 R130, 41 R201). -/
def execSdIsDetected (s : State) : Host.Outcome State Fault Refusal := finish .sdIsDetected .bool (sdIsDetected hostFrame) s

/-- `powerOn` (30 R130, 41 R203). -/
def execPowerOn (s : State) : Host.Outcome State Fault Refusal := finish .powerOn .err (powerOn hostFrame .host) s

/-- `initializeCard` (30 R130, 41 R210). -/
def execInitializeCard (s : State) : Host.Outcome State Fault Refusal := finish .initializeCard .err (initializeCard hostFrame) s

end Sys2Proof.Machine
end

