-- ==== Sys2Proof/Machine/BlockTransfer.lean ====
section
/-! DEFINITION. BlockTransfer.lean: the block-transfer DMA engine, the check calls, the card status queries and Abort
(44_block_transfer.md, 60 R366 to R368). -/

namespace Sys2Proof.Machine

/-! ### readBlocks and writeBlocks (44 R302 to R309) -/

/-- The operand checks of 44 R302, in its order. -/
def checkOperands (b : Frame) (address buffer blockSize numBlocks : Word) : Act Unit := do
  refuseOutstanding b .xferBlocks 1
  b.pass .xferBlocks [(2, 0)]
  refuseIf (decide (blockSize ≠ 512)) .blockSizeNot512
  b.pass .xferBlocks [(3, 0)]
  refuseIf (decide (numBlocks.toNat = 0 ∨ 65535 < numBlocks.toNat)) .badBlockCount
  b.pass .xferBlocks [(4, 0)]
  let t ← readCardType
  refuseIf (decide (t ≠ .highCapacity ∧ 2 ^ 23 ≤ address.toNat)) .addressOverflow
  b.pass .xferBlocks [(5, 0)]
  raiseIf (decide (buffer.toNat % 4 ≠ 0)) .bufferMisaligned
  b.pass .xferBlocks [(6, 0)]
  let s ← getState
  raiseIf (!allInDmaRegion s.cfg buffer.toNat (blockBytes * numBlocks.toNat)) .bufferNotDmaCapable

/-- The cache hook (44 R304). -/
def cacheHook (b : Frame) (d : Dir) (buffer len : Nat) : Act Unit := do
  let s ← getState
  if s.cfg.cacheHooks then
    match d with
    | .read => cacheInvalidate b ⟨.xferBlocks, 10, 1⟩ buffer len
    | .write => cacheClean b ⟨.xferBlocks, 10, 1⟩ buffer len
  else b.pass .xferBlocks [(10, 0)]

/-- The transfer's buffer is in use from here (20 R91); a read buffer moved without cache hooks stays a draw for the host (20 R90). -/
def openWindow (w : Buffer) : Act Unit :=
  update (fun s =>
    { s with windows := w :: s.windows, stale := if w.dir = .read && !s.cfg.cacheHooks then w :: s.stale else s.stale })

/-- Arming (44 R305). -/
def armTransfer (b : Frame) (d : Dir) (buffer numBlocks : Word) : Act Unit := do
  let s ← getState
  regWrite b ⟨.xferBlocks, 11, 1⟩ .dctrl 0
  xferWrite b ⟨.xferBlocks, 12, 1⟩ (fun x => { x with complete := false })
  xferWrite b ⟨.xferBlocks, 13, 1⟩ (fun x => { x with error := .ok })
  b.pass .xferBlocks [(14, 0)]
  xferWrite b ⟨.xferBlocks, 14, 1⟩ (setInProgress d)
  openWindow ⟨d, buffer.toNat, blockBytes * numBlocks.toNat⟩
  xferWrite b ⟨.xferBlocks, 15, 1⟩ (fun x => { x with operation := some ⟨countOf numBlocks, d⟩ })
  regWrite b ⟨.xferBlocks, 16, 1⟩ .dtimer s.cfg.dtimer
  regWrite b ⟨.xferBlocks, 17, 1⟩ .dlen (BitVec.ofNat 32 (blockBytes * numBlocks.toNat))
  regWrite b ⟨.xferBlocks, 18, 1⟩ .dctrl (dmaControl d)
  regSet b .xferBlocks 19 .mask (dirIrqs d)
  regWrite b ⟨.xferBlocks, 20, 1⟩ .idmabase0 buffer
  regWrite b ⟨.xferBlocks, 21, 1⟩ .idmactrl 1
  regSet b .xferBlocks 22 .cmdr cmdtrans

/-- The retries: `n` attempts are left after one that gave `e` (44 R308). -/
def retryTransfer (b : Frame) (command daddr : Word) : Nat → Err → Act Err
  | 0, e => do
    b.pass .xferBlocks [(25, 0)]
    pure e
  | n + 1, e => do
    b.pass .xferBlocks [(25, 0)]
    if e = .ok then pure .ok
    else do
      let a ← readRcaArg
      let _ ← transmitCommand (b.call ⟨.xferBlocks, 26, 0⟩) 55 a 1
      let e' ← transmitCommand (b.call ⟨.xferBlocks, 27, 0⟩) command daddr 1
      b.pass .xferBlocks [(28, 0)]
      retryTransfer b command daddr n e'

/-- The attempts of a transfer command are exhausted: the `CMDTRANS` of the bound controller outlives its transfer (70 R424, 44 R309). -/
def State.exhaust (s : State) : State :=
  match s.session.bound with
  | none => s
  | some i => s.setPeriph i { s.periph i with exhausted := true }

/-- The transfer command with its retries, and what exhaustion does (44 R307 to R309). -/
def sendTransferCommand (b : Frame) (d : Dir) (command daddr : Word) : Act Err := do
  b.pass .xferBlocks [(23, 0)]
  let e ← transmitCommand (b.call ⟨.xferBlocks, 24, 0⟩) command daddr 1
  let e ← retryTransfer b command daddr (attempts - 1) e
  b.pass .xferBlocks [(29, 0)]
  if e = .ok then do
    b.pass .xferBlocks [(32, 0)]
    pure .ok
  else do
    b.pass .xferBlocks [(30, 0)]
    xferWrite b ⟨.xferBlocks, 30, 1⟩ (clearInProgress d)
    update State.exhaust
    b.pass .xferBlocks [(31, 0)]
    pure e

/-- `xferBlocks` (44 R300 to R309). -/
def xferBlocks (b : Frame) (d : Dir) (address buffer blockSize numBlocks : Word) : Act Err := do
  checkOperands b address buffer blockSize numBlocks
  let t ← readCardType
  b.pass .xferBlocks [(8, 0)]
  thenOk (transmitCommand (b.call ⟨.xferBlocks, 9, 0⟩) 16 512 1) (do
    cacheHook b d buffer.toNat (blockBytes * numBlocks.toNat)
    armTransfer b d buffer numBlocks
    sendTransferCommand b d (transferCommand d (countOf numBlocks)) (dataAddress t address))

/-! ### The card status poll (44 R325) and Abort (60 R366) -/

/-- The statements of `SD_GetStatus` after the test on line 3, up to its return (44 R325). -/
def statusPoints : Err → List (Nat × Nat)
  | .ok => [(3, 1)]
  | .busy => [(4, 0), (4, 1)]
  | _ => [(4, 0), (5, 0)]

/-- `SD_GetStatus` (44 R325). -/
def sdGetStatus (b : Frame) : Act Err := do
  let a ← readRcaArg
  thenOk (transmitCommand (b.call ⟨.sdGetStatus, 1, 0⟩) 13 a 1) (do
    let r ← regRead b ⟨.sdGetStatus, 2, 1⟩ .resp1
    b.pass .sdGetStatus ((3, 0) :: statusPoints (statusOfState (currentState r)))
    pure (statusOfState (currentState r)))

/-- `SD_Abort` (60 R366). -/
def sdAbort (b : Frame) : Act Err := do
  regClr b .sdAbort 1 .mask xferIrqs
  regWrite b ⟨.sdAbort, 2, 1⟩ .idmactrl 0
  regWrite b ⟨.sdAbort, 3, 1⟩ .icr staticFlags
  let e ← sdGetStatus (b.call ⟨.sdAbort, 4, 0⟩)
  if e = .busy then transmitCommand (b.call ⟨.sdAbort, 5, 0⟩) 12 0 1
  else do
    b.pass .sdAbort [(6, 0)]
    pure .ok

/-! ### checkRead and checkWrite (44 R316 to R319) -/

/-- The check call reports the end of direction `d`: its buffers are the host's again, and the bytes sent from write buffers stay what they are (20 R91). -/
def State.reportEnd (s : State) (d : Dir) : State :=
  { s with
    windows := s.windows.filter (fun w => w.dir != d)
    sent := if d = .write then s.sent.map (fun x => SentByte.settled x.byte) else s.sent }

/-- The report of a check call (20 R91). -/
def closeWindow (d : Dir) : Act Unit := update (fun s => s.reportEnd d)

/-- The end of direction `d` after an error: its in-progress flag is cleared and its buffers are the host's again (44 R318, 20 R91). -/
def endTransfer (b : Frame) (pt : Point) (d : Dir) : Act Unit := do
  xferWrite b pt (clearInProgress d)
  closeWindow d

/-- Surfacing the recorded error: Abort, and the end of the transfer if Abort gave `Ok` (44 R316, R318); where Abort failed the transfer goes on
and its buffer stays in use (notes/assumptions/23.md). The lines of `proc` from `line` on. -/
def surfaceError (b : Frame) (proc : Proc) (line : Nat) (d : Dir) : Act Err := do
  let e ← xferRead b ⟨proc, line, 1⟩ (fun x => x.error)
  let a ← sdAbort (b.call ⟨proc, line + 1, 0⟩)
  onlyIf (a = .ok) (endTransfer b ⟨proc, line + 1, 1⟩ d)
  b.pass proc [(line + 2, 0)]
  pure e

/-- The check call, `P_CHECK_FORM = Nested` (44 R316). -/
def checkNested (b : Frame) (d : Dir) : Act Err := do
  let going ← xferRead b ⟨.checkNested, 1, 1⟩ (inProgress d)
  if going then do
    let e ← xferRead b ⟨.checkNested, 2, 1⟩ (fun x => x.error)
    if e = .ok then do
      b.pass .checkNested [(2, 2)]
      pure .busy
    else surfaceError b .checkNested 3 d
  else do
    closeWindow d
    b.pass .checkNested [(1, 2)]
    pure .ok

/-- The check call, `P_CHECK_FORM = ErrorFirst` (44 R316). -/
def checkErrorFirst (b : Frame) (d : Dir) : Act Err := do
  let e ← xferRead b ⟨.checkErrorFirst, 1, 1⟩ (fun x => x.error)
  if e = .ok then do
    let going ← xferRead b ⟨.checkErrorFirst, 5, 1⟩ (inProgress d)
    if going then do
      b.pass .checkErrorFirst [(5, 2)]
      pure .busy
    else do
      closeWindow d
      b.pass .checkErrorFirst [(6, 0)]
      pure .ok
  else surfaceError b .checkErrorFirst 2 d

/-- `SD_CheckRead` and `SD_CheckWrite` (44 R316, R317). -/
def checkTransfer (b : Frame) (d : Dir) : Act Err := do
  let s ← getState
  match s.cfg.checkForm with
  | .nested => checkNested b d
  | .errorFirst => checkErrorFirst b d

/-! ### The SD status (44 R330, R331) -/

/-- `SD_GetCardStatus` after its `sendSDStatus` has given `Ok` (44 R331): the fields go to `S.SDStatus` and to the structure at `out`. -/
def storeSdStatus (b : Frame) (out : Word) : Act Err := do
  let s ← getState
  let st := sdStatusOf s.ssr
  sessionWrite b ⟨.sdGetCardStatus, 2, 0⟩ (fun x => { x with sdStatus := some st })
  update (fun s => { s with structs := (out, st) :: s.structs.filter (fun x => x.1 != out) })
  pure .ok

/-- `sendSDStatus` from its FIFO loop on, with the words received so far (44 R330). -/
def ssrFrom (b : Frame) (caller : SsrCaller) (words : List Word) : Act Err := do
  let (e, words) ← polledRead b ssrPoints 16 (.ssrLoop caller) words
  if e = .ok then do
    let words ← padWords 16 words
    update (fun s => { s with ssr := words.flatMap fifoBytes })
    b.pass .sendSDStatus [(20, 0), (21, 0)]
    pure .ok
  else pure e

/-- `sendSDStatus` (44 R330). -/
def sendSDStatus (b : Frame) (caller : SsrCaller) : Act Err :=
  thenOk (transmitCommand (b.call ⟨.sendSDStatus, 1, 0⟩) 16 64 1) (do
    let a ← readRcaArg
    thenOk (transmitCommand (b.call ⟨.sendSDStatus, 2, 0⟩) 55 a 1) (do
      armPolledRead b .sendSDStatus 64 ssrControl
      thenOk (transmitCommand (b.call ⟨.sendSDStatus, 6, 0⟩) 13 0 1) (do
        b.pass .sendSDStatus [(7, 0)]
        ssrFrom b caller [])))

/-- `SD_GetCardStatus` (44 R331). -/
def sdGetCardStatus (b : Frame) (out : Word) : Act Err :=
  thenOk (sendSDStatus (b.call ⟨.sdGetCardStatus, 1, 0⟩) (.getCardStatus out)) (storeSdStatus b out)

/-! ### The meanings -/

/-- `SD_ReadBlocks_DMA` (30 R130, 44 R300). -/
def execSdReadBlocksDMA (address buffer blockSize numBlocks : Word) (s : State) : Host.Outcome State Fault Refusal :=
  finish (.sdReadBlocksDMA address buffer blockSize numBlocks) .err (xferBlocks hostFrame .read address buffer blockSize numBlocks) s

/-- `SD_WriteBlocks_DMA` (30 R130, 44 R301). -/
def execSdWriteBlocksDMA (address buffer blockSize numBlocks : Word) (s : State) : Host.Outcome State Fault Refusal :=
  finish (.sdWriteBlocksDMA address buffer blockSize numBlocks) .err (xferBlocks hostFrame .write address buffer blockSize numBlocks) s

/-- `SD_CheckRead` (30 R130, 44 R316). -/
def execSdCheckRead (s : State) : Host.Outcome State Fault Refusal := finish .sdCheckRead .err (checkTransfer hostFrame .read) s

/-- `SD_CheckWrite` (30 R130, 44 R317). -/
def execSdCheckWrite (s : State) : Host.Outcome State Fault Refusal := finish .sdCheckWrite .err (checkTransfer hostFrame .write) s

/-- `SD_GetStatus` (30 R130, 44 R325). -/
def execSdGetStatus (s : State) : Host.Outcome State Fault Refusal := finish .sdGetStatus .err (sdGetStatus hostFrame) s

/-- `SD_GetCardStatus` (30 R130, 44 R331). -/
def execSdGetCardStatus (out : Word) (s : State) : Host.Outcome State Fault Refusal :=
  finish (.sdGetCardStatus out) .err (sdGetCardStatus hostFrame out) s

/-- `SD_Abort` (30 R130, 60 R366). -/
def execSdAbort (s : State) : Host.Outcome State Fault Refusal := finish .sdAbort .err (sdAbort hostFrame) s

/-- `sendSDStatus` (30 R130, 44 R330). -/
def execSendSDStatus (s : State) : Host.Outcome State Fault Refusal := finish .sendSDStatus .err (sendSDStatus hostFrame .host) s

end Sys2Proof.Machine
end

