-- ==== Sys2Proof/Machine/Commands.lean ====
section
/-! DEFINITION. Commands.lean: the SD commands (30 R110): each is `transmitCommand` with the index, argument and response type its row
gives (notes/assumptions/5.md); and the transport's own procedures and functions as instructions. -/

namespace Sys2Proof.Machine

/-- An SD command that `HOST` sends (30 R110). -/
def sendCommand (command : Word) (argument : Act Word) (rt : Int) : Act Err := do
  let a ← argument
  transmitCommand hostFrame command a rt

/-- DADDR of a block (30 R106). Sent as an instruction of its own, outside `xferBlocks`, a block command is not refused for its block number: on a
card that is not high-capacity the address wraps modulo 2^32 (notes/assumptions/32.md: DESIGN CHOICE). -/
def readDataAddress (block : Word) : Act Word := do
  let t ← readCardType
  pure (dataAddress t block)

/-- The argument of CMD55 (30 R110). -/
def readAppArgument : AppArg → Act Word
  | .none => pure 0
  | .rcaArg => readRcaArg

/-- The argument of ACMD41 (30 R106). -/
def readAcmd41Argument : Act Word := do
  let c ← readOr (fun s => s.session.capArg)
  pure (acmd41Argument c)

/-- CMD0, go-idle. -/
def execCmd0 (s : State) : Host.Outcome State Fault Refusal := finish .cmd0 .err (sendCommand 0 (pure 0) 0) s

/-- CMD2, all-send-CID. -/
def execCmd2 (s : State) : Host.Outcome State Fault Refusal := finish .cmd2 .err (sendCommand 2 (pure 0) 2) s

/-- CMD3, new relative address: the R6 decoder latches the RCA (40 R184). -/
def execCmd3 (s : State) : Host.Outcome State Fault Refusal := finish .cmd3 .err (sendCommand 3 (pure 0) 6) s

/-- CMD7, select/deselect by RCA. -/
def execCmd7 (s : State) : Host.Outcome State Fault Refusal := finish .cmd7 .err (sendCommand 7 readRcaArg 1) s

/-- CMD8, interface-condition probe. -/
def execCmd8 (s : State) : Host.Outcome State Fault Refusal := finish .cmd8 .err (sendCommand 8 (pure checkPattern) 3) s

/-- CMD9, send-CSD. -/
def execCmd9 (s : State) : Host.Outcome State Fault Refusal := finish .cmd9 .err (sendCommand 9 readRcaArg 2) s

/-- CMD12, stop-transmission. -/
def execCmd12 (s : State) : Host.Outcome State Fault Refusal := finish .cmd12 .err (sendCommand 12 (pure 0) 1) s

/-- CMD13, card status poll. -/
def execCmd13 (s : State) : Host.Outcome State Fault Refusal := finish .cmd13 .err (sendCommand 13 readRcaArg 1) s

/-- CMD16, block length. -/
def execCmd16 (len : BlockLen) (s : State) : Host.Outcome State Fault Refusal :=
  finish (.cmd16 len) .err (sendCommand 16 (pure (blockLenArgument len)) 1) s

/-- CMD17, single-block read. -/
def execCmd17 (block : Word) (s : State) : Host.Outcome State Fault Refusal :=
  finish (.cmd17 block) .err (sendCommand 17 (readDataAddress block) 1) s

/-- CMD18, multi-block read. -/
def execCmd18 (block : Word) (s : State) : Host.Outcome State Fault Refusal :=
  finish (.cmd18 block) .err (sendCommand 18 (readDataAddress block) 1) s

/-- CMD24, single-block write. -/
def execCmd24 (block : Word) (s : State) : Host.Outcome State Fault Refusal :=
  finish (.cmd24 block) .err (sendCommand 24 (readDataAddress block) 1) s

/-- CMD25, multi-block write. -/
def execCmd25 (block : Word) (s : State) : Host.Outcome State Fault Refusal :=
  finish (.cmd25 block) .err (sendCommand 25 (readDataAddress block) 1) s

/-- CMD55, app-command prefix. -/
def execCmd55 (arg : AppArg) (s : State) : Host.Outcome State Fault Refusal :=
  finish (.cmd55 arg) .err (sendCommand 55 (readAppArgument arg) 1) s

/-- ACMD6, set bus width. -/
def execAcmd6 (width : BusWidth) (s : State) : Host.Outcome State Fault Refusal :=
  finish (.acmd6 width) .err (sendCommand 6 (pure (widthArgument width)) 1) s

/-- ACMD13, SD status request. -/
def execAcmd13 (s : State) : Host.Outcome State Fault Refusal := finish .acmd13 .err (sendCommand 13 (pure 0) 1) s

/-- ACMD41, operating-condition request. -/
def execAcmd41 (s : State) : Host.Outcome State Fault Refusal := finish .acmd41 .err (sendCommand 41 readAcmd41Argument 3) s

/-- ACMD51, send-SCR. -/
def execAcmd51 (s : State) : Host.Outcome State Fault Refusal := finish .acmd51 .err (sendCommand 51 (pure 0) 1) s

/-- `transmitCommand` (30 R130, 40 R160): `responseType` is a two's-complement word (30 R135). An index the block never issues is refused (30 R132,
93 U24). 93 U24 names no order against the first statement of 40 R165: the index is checked at the call, before the operation's statements, so where both
checks fail the refusal is `commandNotIssued` (DESIGN CHOICE, notes/assumptions/33.md). -/
def execTransmitCommand (command argument responseType : Word) (s : State) : Host.Outcome State Fault Refusal :=
  finish (.transmitCommand command argument responseType) .err (do
    refuseIf (!commandInRange command) .badCall
    refuseIf (!issuedCommands.contains command) .commandNotIssued
    transmitCommand hostFrame command argument responseType.toInt) s

/-- `classify` (30 R130, 40 R170). -/
def execClassify (command responseType : Word) (s : State) : Host.Outcome State Fault Refusal :=
  finish (.classify command responseType) .err (do
    refuseIf (!commandInRange command) .badCall
    classify hostFrame command responseType.toInt) s

/-- `decodeCardStatus` (40 R177): a pure function of its operand. -/
def execDecodeCardStatus (r : Word) (s : State) : Host.Outcome State Fault Refusal :=
  finish (.decodeCardStatus r) .err (decodeStatus hostFrame r) s

/-- `decodeR6` (40 R180). -/
def execDecodeR6 (r : Word) (s : State) : Host.Outcome State Fault Refusal := finish (.decodeR6 r) .err (decodeR6 hostFrame r) s

/-! ### Going on from a hold, and fetching -/

/-- `wideBusOperationConfig` goes on; its caller returns (43 R285, 41 R221). -/
def returnWide (caller : WideCaller) (op : Act Err) (s : State) : Host.Outcome State Fault Refusal :=
  match caller with
  | .host => conclude .err op s
  | .sdInit => conclude .bool (do
      let e ← op
      sdInitResult hostFrame e) s

/-- The frame of an operation that goes on from a wait: the calls that the wait stands in. -/
def Place.frame (p : Place) : Frame := { hostFrame with callers := p.callers }

/-- The frame of the operation that called the one a wait stands in. -/
def Place.outer (p : Place) : Frame := { hostFrame with callers := p.callers.dropLast }

/-- `HOST` goes on from the place it holds at (00 R13, 10 R49). No step of the model ends inside a call elsewhere (notes/assumptions/4.md): `Step.lean` runs a
call that stands before its first statement; at a later statement the values of its local variables are no state, and nothing happens. -/
def resume (p : Place) (s : State) : Host.Outcome State Fault Refusal :=
  match p with
  | .call _ => .next s
  | .delay .host => conclude .err (powerOnSettled p.frame .host) s
  | .delay (.sdInit d) =>
    conclude .bool (do
      let e ← powerOnSettled p.frame (.sdInit d)
      let e ← sdInitAfterPower p.outer d e
      sdInitResult p.outer e) s
  | .scrLoop .host words => conclude .err (scrFrom p.frame .host words) s
  | .scrLoop (.wideBus mode caller) words =>
    returnWide caller (thenOk (scrFrom p.frame (.wideBus mode caller) words) (wideBusAfterScr p.outer caller (widthOfMode mode))) s
  | .ssrLoop .host words => conclude .err (ssrFrom p.frame .host words) s
  | .ssrLoop (.getCardStatus out) words =>
    conclude .err (thenOk (ssrFrom p.frame (.getCardStatus out) words) (storeSdStatus p.outer out)) s
  | .settleLoop caller code => returnWide caller (settle p.frame caller code) s

/-- What `HOST` finds when it looks for its next step (30 R135). -/
inductive Fetched where
  /-- No line is left: `HOST` makes no call. -/
  | nothing
  /-- A line that is no instruction: `ENV` and `IRQ`, or the host program's own memory access. -/
  | outside (line : Line) (s : State)
  /-- An instruction. -/
  | instr (i : Instr) (s : State)
  /-- Bytes that are no instruction (30 R131). -/
  | bad (e : DecodeError)
  deriving DecidableEq, Repr

/-- Fetching the next line of the program. What the word of CMD13 and ACMD13 stands for is fixed here (30 R111), by the command written to `CMDR` before the
fetch: a stop command of `IRQ` (70 R425) between the fetch and the line's own write of `CMDR` does not change it (DESIGN CHOICE,
notes/assumptions/7.md). -/
def fetch (s : State) : Fetched :=
  match s.program with
  | [] => .nothing
  | .code c :: rest =>
    match decode s.appCmd c with
    | .ok i => .instr i { s with program := rest }
    | .error e => .bad e
  | .env moves :: rest => .outside (.env moves) { s with program := rest }
  | .load a :: rest => .outside (.load a) { s with program := rest }
  | .store a v :: rest => .outside (.store a v) { s with program := rest }

/-- A line that is no instruction. A load or store of the host program is taken without a boundary before it, so none of these lines takes a slot of the
schedule: what `ENV` and `IRQ` do between them is an `env` line (DESIGN CHOICE, notes/assumptions/36.md). -/
def runOutside (line : Line) (s : State) : Host.Outcome State Fault Refusal :=
  match line with
  | .env moves => finishOutside (runMoves (takeIrq irqHandler) moves) s
  | .load a => .next (hostLoad a s)
  | .store a v => .next (hostStore a v s)
  | .code _ => .next s

/-- `HOST` is idle and makes no call: `ENV` and `IRQ` go on (00 R15, 60 R370). -/
def runIdle (s : State) : Host.Outcome State Fault Refusal := finishOutside hostFrame.between s

/-- The state with an encoded instruction as the line `HOST` fetches next. -/
def withFetchCode (s : State) (c : Code) : State := { s with hostStep := .idle, program := .code c :: s.program }

end Sys2Proof.Machine
end

