-- ==== Sys2Proof/Machine/Dispatch.lean ====
section
/-! DEFINITION. Dispatch.lean: exec, one arm per constructor of Instr. -/

namespace Sys2Proof.Machine

def exec (i : Instr) (s : State) : Host.Outcome State Fault Refusal :=
  match i with
  -- SD commands (30 R110)
  | .cmd0 => Sys2Proof.Machine.execCmd0 s
  | .cmd2 => Sys2Proof.Machine.execCmd2 s
  | .cmd3 => Sys2Proof.Machine.execCmd3 s
  | .cmd7 => Sys2Proof.Machine.execCmd7 s
  | .cmd8 => Sys2Proof.Machine.execCmd8 s
  | .cmd9 => Sys2Proof.Machine.execCmd9 s
  | .cmd12 => Sys2Proof.Machine.execCmd12 s
  | .cmd13 => Sys2Proof.Machine.execCmd13 s
  | .cmd16 len => Sys2Proof.Machine.execCmd16 len s
  | .cmd17 block => Sys2Proof.Machine.execCmd17 block s
  | .cmd18 block => Sys2Proof.Machine.execCmd18 block s
  | .cmd24 block => Sys2Proof.Machine.execCmd24 block s
  | .cmd25 block => Sys2Proof.Machine.execCmd25 block s
  | .cmd55 arg => Sys2Proof.Machine.execCmd55 arg s
  | .acmd6 width => Sys2Proof.Machine.execAcmd6 width s
  | .acmd13 => Sys2Proof.Machine.execAcmd13 s
  | .acmd41 => Sys2Proof.Machine.execAcmd41 s
  | .acmd51 => Sys2Proof.Machine.execAcmd51 s
  -- host entry points (30 R130)
  | .sdInitializeLL sel => Sys2Proof.Machine.execSdInitializeLL sel s
  | .sdInit clockDivider => Sys2Proof.Machine.execSdInit clockDivider s
  | .sdReadBlocksDMA address buffer blockSize numBlocks => Sys2Proof.Machine.execSdReadBlocksDMA address buffer blockSize numBlocks s
  | .sdWriteBlocksDMA address buffer blockSize numBlocks => Sys2Proof.Machine.execSdWriteBlocksDMA address buffer blockSize numBlocks s
  | .sdCheckRead => Sys2Proof.Machine.execSdCheckRead s
  | .sdCheckWrite => Sys2Proof.Machine.execSdCheckWrite s
  | .sdGetCardInfo => Sys2Proof.Machine.execSdGetCardInfo s
  | .sdGetStatus => Sys2Proof.Machine.execSdGetStatus s
  | .sdGetCardStatus out => Sys2Proof.Machine.execSdGetCardStatus out s
  | .sdIsDetected => Sys2Proof.Machine.execSdIsDetected s
  | .sdAbort => Sys2Proof.Machine.execSdAbort s
  -- internal procedures (30 R130)
  | .transmitCommand command argument responseType => Sys2Proof.Machine.execTransmitCommand command argument responseType s
  | .classify command responseType => Sys2Proof.Machine.execClassify command responseType s
  | .powerOn => Sys2Proof.Machine.execPowerOn s
  | .initializeCard => Sys2Proof.Machine.execInitializeCard s
  | .decodeCSD => Sys2Proof.Machine.execDecodeCSD s
  | .decodeCID => Sys2Proof.Machine.execDecodeCID s
  | .findSCR => Sys2Proof.Machine.execFindSCR s
  | .wideBusOperationConfig mode => Sys2Proof.Machine.execWideBusOperationConfig mode s
  | .sendSDStatus => Sys2Proof.Machine.execSendSDStatus s
  -- interrupt entries (60 R356, R360)
  | .sdmmc1IRQHandler => Sys2Proof.Machine.execSdmmc1IRQHandler s
  | .sdmmc2IRQHandler => Sys2Proof.Machine.execSdmmc2IRQHandler s
  -- functions without a selector (40 R177, R180)
  | .decodeCardStatus r => Sys2Proof.Machine.execDecodeCardStatus r s
  | .decodeR6 r => Sys2Proof.Machine.execDecodeR6 r s

end Sys2Proof.Machine
end

