-- ==== Sys2Proof/Machine/Step.lean ====
section
/-! DEFINITION. Step.lean: one step of the machine, and the place a program's instruction is fetched from. -/

namespace Sys2Proof.Machine

/-- One step: `HOST` goes on from a hold, or takes up a call it stands before the first statement of, or is idle and takes the next line of the program.
Bytes that are no instruction are refused as `badCall`: 30 R131 says so of a host call with another selector or an operand outside its range; for a command
line whose word 30 R110 does not list (93 U24 says `refuse` and gives no name) and for a call with another number of operand bytes it is the model's choice
(DESIGN CHOICE, notes/assumptions/35.md). -/
def step (s : State) : Host.Outcome State Fault Refusal :=
  match s.hostStep with
  | .idle =>
    match fetch s with
    | .nothing => runIdle s
    | .outside line s' => runOutside line s'
    | .instr i s' => exec i s'
    | .bad _ => .refused .badCall
  | .inside (.call i) [] => exec i (s.setHostStep .idle)
  | .inside p _ => resume p s

/-- `s` with an opcode-table row's word as the line `HOST` fetches next, and `HOST` idle. -/
def State.withFetchWord (s : State) (nbits w : Nat) : State := withFetchCode s (tableCode nbits w)

end Sys2Proof.Machine
end

