-- ==== Sys2Proof/Safety.lean ====
section
/-! DEFINITION. Safety.lean: what counts as a sound state, the schedules claims are stated over, and the command table of 30 R110 as one
function, in the terms claims use. -/

namespace Sys2Proof.Machine

/-! ### The invariant -/

/-- The card types a rule writes (10 R31: `powerOn` leaves only these). -/
def CardType.negotiated : Option CardType → Bool
  | none | some .standardV1_1 | some .standardV2_0 | some .highCapacity => true
  | some .secureDigitalIO | some .secureDigitalIOCombo | some .unknown => false

/-- The values of a register that respect the encodings the block never writes (30 R132): `MASK` enables only the data-path sources (60 R355,
44 R311), `DTMODE` is block transfer, `WIDBUS` is not 8-bit and not reserved. -/
def wordAllowed : Reg → Word → Bool
  | .mask, v => v &&& ~~~(rdIrqs ||| wrIrqs) = 0
  | .dctrl, v => v &&& 0xC = 0
  | .clkcr, v => v.getLsbD 15 = false
  | _, _ => true

/-- One controller is sound: the reserved bits of `STA` read 0 (10 R57), `RXFIFOE` follows the FIFO during a polled read (10 R67), and the
registers hold allowed words. -/
def Periph.sound (p : Periph) : Bool :=
  (p.sta &&& 0xE0000000 = 0) && (!p.polledRead || hasFlag p.sta rxfifoe = p.fifo.isEmpty)
    && wordAllowed .mask p.mask && wordAllowed .dctrl p.dctrl && wordAllowed .clkcr p.clkcr && (p.widPrev.getLsbD 1 = false)

/-- A place `HOST` holds at: a wait, which keeps a clock divider that `SD_Init` admits, no more words than its polled read takes, or the width code of
1-bit or 4-bit (41 R226, 43 R281, R290, 44 R330). -/
def Place.sound : Place → Bool
  | .call _ => false
  | .delay .host => true
  | .delay (.sdInit d) => d.toNat < 1024
  | .scrLoop _ words => words.length ≤ 2
  | .ssrLoop _ words => words.length ≤ 16
  | .settleLoop _ code => code.getLsbD 1 = false

/-- The position of `HOST` between two steps of the model: idle, or holding at the head of a wait (00 R13). -/
def HostStep.sound : HostStep → Bool
  | .idle => true
  | .inside p path => p.sound && path = p.path

/-- The part of the invariant that holds at every step of an agent. -/
def SoundCore (s : State) : Prop :=
  Memory.wf s.mem = true ∧ CardType.negotiated s.session.cardType = true ∧ s.sdmmc1.sound = true ∧ s.sdmmc2.sound = true

/-- The invariant: memory in canonical form, a negotiated card type, sound controllers, no handler running between model steps (60 R357,
R370), a sound hold. -/
def Sound (s : State) : Prop := SoundCore s ∧ s.irqStep = .idle ∧ s.hostStep.sound = true

/-! ### Written fields (10 R33, 70 R403) -/

/-- A value that is written stays written. -/
def staysWritten {α : Type} (old new : Option α) : Prop := old.isSome = true → new.isSome = true

/-- The words of a captured register that are written stay written. -/
def RegCells.keepsWritten (old new : RegCells) : Prop :=
  staysWritten old.c0 new.c0 ∧ staysWritten old.c1 new.c1 ∧ staysWritten old.c2 new.c2 ∧ staysWritten old.c3 new.c3

/-- The fields of `S.CardInfo` that are written stay written. -/
def CardInfo.keepsWritten (old new : CardInfo) : Prop :=
  staysWritten old.cardType new.cardType ∧ staysWritten old.rca new.rca ∧ staysWritten old.csdCommon new.csdCommon
    ∧ staysWritten old.csdKind new.csdKind ∧ staysWritten old.csdV1 new.csdV1 ∧ staysWritten old.csdV2 new.csdV2
    ∧ staysWritten old.csdTail new.csdTail ∧ staysWritten old.cid new.cid ∧ staysWritten old.cardCapacity new.cardCapacity
    ∧ staysWritten old.cardBlockSize new.cardBlockSize

/-- The session fields that are written stay written. -/
def Session.keepsWritten (old new : Session) : Prop :=
  staysWritten old.cardType new.cardType ∧ staysWritten old.rca new.rca ∧ old.cid.keepsWritten new.cid ∧ old.csd.keepsWritten new.csd
    ∧ old.cardInfo.keepsWritten new.cardInfo ∧ staysWritten old.capArg new.capArg ∧ staysWritten old.scr.c0 new.scr.c0
    ∧ staysWritten old.scr.c1 new.scr.c1 ∧ staysWritten old.sdStatus new.sdStatus ∧ staysWritten old.bound new.bound

/-! ### Schedules -/

/-- A move that is no entry of `IRQ`. -/
def Move.fromEnv : Move → Bool
  | .irq _ => false
  | .cmdFlags _ _ | .respond _ _ _ | .cmdEnd _ | .dataFlags _ _ | .dataPhaseEnd _ | .dtenClear _ | .fifoPush _ _ | .fifoSend _ | .dataRestart _
  | .dmaStore _ _ | .dmaSend _ _ | .idmaError _ | .dynFlags _ _ | .staleWidbus _ _ | .reservedBits _ _ _ | .pin _ | .delayRuns _ => true

/-- No interrupt is taken in the schedule; `ENV` may do anything. -/
def NoInterrupt (s : State) : Prop := ∀ slot ∈ s.sched, ∀ m ∈ slot, m.fromEnv = true

/-- `n` steps of `HOST` during which nothing else steps. -/
def quiet (n : Nat) : List (List Move) := List.replicate n []

/-- The card answers a started command with a short response: the echoed index, the response word, then the flags; the command ends
(10 R61, R67). -/
def shortAnswer (i : Sdmmc) (index response flags : Word) : List Move :=
  [.respond i .respcmdr index, .respond i .resp1 response, .cmdFlags i flags, .cmdEnd i]

/-- The card answers with a long response. -/
def longAnswer (i : Sdmmc) (x : Reg128) (flags : Word) : List Move :=
  [.respond i .resp1 x.w0, .respond i .resp2 x.w1, .respond i .resp3 x.w2, .respond i .resp4 x.w3, .cmdFlags i flags, .cmdEnd i]

/-- The schedule of a command answered at its first poll with `CMDREND` and the response `response` to the command `index`: eight steps follow each
other, as 40 R186 counts them. -/
def shortScript (i : Sdmmc) (index response : Word) : List (List Move) :=
  quiet 4 ++ [shortAnswer i index response cmdrend] ++ quiet 4 -- R1 and R6

/-- The schedule of an operating-condition or interface-condition command (type 3). -/
def probeScript (i : Sdmmc) (response : Word) : List (List Move) := quiet 4 ++ [shortAnswer i 63 response cmdrend] ++ quiet 2

/-- The schedule of a command with a long response (type 2), and of the four reads that capture it. -/
def captureScript (i : Sdmmc) (x : Reg128) : List (List Move) := quiet 4 ++ [longAnswer i x cmdrend] ++ quiet 6

/-- The schedule of a command without a response (type 0). -/
def sentScript (i : Sdmmc) : List (List Move) := quiet 4 ++ [[.cmdFlags i cmdsent, .cmdEnd i]] ++ quiet 2

/-! #### Schedules of whole operations. `status` is the card status that answers the type 1 commands. -/

/-- One trial of `powerOn`: CMD55, ACMD41 answered with `ocr`, the read of the OCR (41 R207). -/
def trialScript (i : Sdmmc) (status ocr : Word) : List (List Move) := shortScript i 55 status ++ probeScript i ocr ++ quiet 1

/-- The start of `powerOn`: the power switched on and settled, CMD0, CMD8 answered or timed out (41 R203). -/
def probedScript (i : Sdmmc) (answersProbe : Bool) : List (List Move) :=
  quiet 3 ++ sentScript i ++ (quiet 4 ++ [shortAnswer i 63 checkPattern (if answersProbe then cmdrend else ctimeout)] ++ quiet 2)

/-- `powerOn`: its start, CMD55, one trial for each OCR of the list (41 R203). -/
def powerOnScript (i : Sdmmc) (status : Word) (answersProbe : Bool) (ocrs : List Word) : List (List Move) :=
  probedScript i answersProbe ++ shortScript i 55 status ++ ocrs.flatMap (trialScript i status)

/-- `initializeCard`: the power read, CMD2, CMD3, CMD9 (41 R210). -/
def identifyScript (i : Sdmmc) (cid csd : Reg128) (r6 : Word) : List (List Move) :=
  quiet 1 ++ captureScript i cid ++ shortScript i 3 r6 ++ captureScript i csd

/-- A polled read: the card's words are in the FIFO at the first poll; `DATAEND` and the end of the data phase come after the last word
was read (43 R281, 44 R330). -/
def readScript (i : Sdmmc) (words : List Word) : List (List Move) :=
  [words.map (Move.fifoPush i)] ++ quiet (2 * words.length - 1) ++ [[.dataFlags i dataend, .dataPhaseEnd i]] ++ quiet 1

/-- `findSCR` (43 R281). -/
def scrScript (i : Sdmmc) (status w0 w1 : Word) : List (List Move) :=
  shortScript i 16 status ++ shortScript i 55 status ++ quiet 3 ++ shortScript i 51 status ++ readScript i [w0, w1]

/-- `wideBusOperationConfig` to its end: the lock read, `findSCR`, CMD55, ACMD6, one settle iteration (43 R285). -/
def wideScript (i : Sdmmc) (status w0 w1 : Word) : List (List Move) :=
  quiet 1 ++ scrScript i status w0 w1 ++ shortScript i 55 status ++ shortScript i 6 status ++ quiet 3

/-- `sendSDStatus` (44 R330). -/
def ssrScript (i : Sdmmc) (status : Word) (words : List Word) : List (List Move) :=
  shortScript i 16 status ++ shortScript i 55 status ++ quiet 3 ++ shortScript i 13 status ++ readScript i words

/-- The admission of a transfer call, `SD_Init` or `SD_Initialize_LL`: the reads of the two in-progress flags (20 R89, 44 R302, 41 R200, R228). -/
def admissionScript : List (List Move) := quiet 2

/-- `SD_Init` to its end (41 R221, R230): its admission, the pin read where `P_DETECT`, slow clock and polarity, `powerOn`, `initializeCard`, CMD7, the operating clock,
`wideBusOperationConfig`. -/
def initScript (i : Sdmmc) (detect : Bool) (status : Word) (ocrs : List Word) (cid csd : Reg128) (r6 selected w0 w1 : Word) : List (List Move) :=
  admissionScript ++ quiet (if detect then 1 else 0) ++ quiet 3 ++ powerOnScript i status true ocrs ++ identifyScript i cid csd r6 ++ shortScript i 7 selected
    ++ quiet 2 ++ wideScript i status w0 w1

/-- A settle loop that reads the old width `n` times, then the new one (43 R290, R291). -/
def settleScript (i : Sdmmc) (n : Nat) : List (List Move) :=
  (List.replicate n (quiet 2 ++ [[.staleWidbus i true]])).flatten ++ quiet 2 ++ [[.staleWidbus i false]]

/-- A transfer command that fails its CRC check, and the probe that follows it (44 R308). -/
def failedAttempt (i : Sdmmc) (status : Word) : List (List Move) :=
  quiet 4 ++ [shortAnswer i 0 0 ccrcfail] ++ quiet 2 ++ shortScript i 55 status

/-- The steps of arming: the cache hook where `P_CACHE_HOOKS`, then 14 register and Transfer State accesses (44 R304, R305). -/
def armScript (hooks : Bool) : List (List Move) := quiet (if hooks then 1 else 0) ++ quiet 14

/-! ### The command table (30 R110) -/

/-- The index, argument and response type of the command an instruction sends, written out from the table of 30 R110 and the arguments of 30 R106;
none where the argument's session field is unwritten, or the instruction is no command. -/
def commandRow (s : Session) : Instr → Option (Word × Word × Int)
  | .cmd0 => some (0, 0, 0)
  | .cmd2 => some (2, 0, 2)
  | .cmd3 => some (3, 0, 6)
  | .cmd7 => s.rca.map (fun rca => (7, rca ++ 0#16, 1))
  | .cmd8 => some (8, 0x000001AA, 3)
  | .cmd9 => s.rca.map (fun rca => (9, rca ++ 0#16, 2))
  | .cmd12 => some (12, 0, 1)
  | .cmd13 => s.rca.map (fun rca => (13, rca ++ 0#16, 1))
  | .cmd16 .b512 => some (16, 512, 1)
  | .cmd16 .b8 => some (16, 8, 1)
  | .cmd16 .b64 => some (16, 64, 1)
  | .cmd17 n => s.cardType.map (fun t => (17, if t = .highCapacity then n else n * 512, 1))
  | .cmd18 n => s.cardType.map (fun t => (18, if t = .highCapacity then n else n * 512, 1))
  | .cmd24 n => s.cardType.map (fun t => (24, if t = .highCapacity then n else n * 512, 1))
  | .cmd25 n => s.cardType.map (fun t => (25, if t = .highCapacity then n else n * 512, 1))
  | .cmd55 .none => some (55, 0, 1)
  | .cmd55 .rcaArg => s.rca.map (fun rca => (55, rca ++ 0#16, 1))
  | .acmd6 .w1 => some (6, 0, 1)
  | .acmd6 .w4 => some (6, 2, 1)
  | .acmd13 => some (13, 0, 1)
  | .acmd41 => s.capArg.map (fun c => (41, 0x80100000 ||| c, 3))
  | .acmd51 => some (51, 0, 1)
  | .transmitCommand c a rt =>
    if c.toNat ∈ [0, 2, 3, 6, 7, 8, 9, 12, 13, 16, 17, 18, 24, 25, 41, 51, 55] ∧ (rt = 0 ∨ rt = 1 ∨ rt = 2 ∨ rt = 3 ∨ rt = 6) then
      some (c, a, rt.toInt) else none
  | .sdInitializeLL _ | .sdInit _ | .sdReadBlocksDMA _ _ _ _ | .sdWriteBlocksDMA _ _ _ _ | .sdCheckRead | .sdCheckWrite
  | .sdGetCardInfo | .sdGetStatus | .sdGetCardStatus _ | .sdIsDetected | .sdAbort | .classify _ _ | .powerOn | .initializeCard
  | .decodeCSD | .decodeCID | .findSCR | .wideBusOperationConfig _ | .sendSDStatus | .sdmmc1IRQHandler | .sdmmc2IRQHandler
  | .decodeCardStatus _ | .decodeR6 _ => none

/-! ### States after a command -/

/-- The state when a call has returned `r`, its schedule used up to `rest`. -/
def State.returned (s : State) (rest : List (List Move)) (r : Result) : State := (s.setSched rest).setReturn .idle r

/-- The mask the transport clears (40 R161). -/
def State.clearMask (s : State) : Word := clearSetMask s.cfg.clearSet

/-- A controller after `transmitCommand` wrote its command: the flags of the clear set cleared, the argument and the command word written
(40 R165), the response registers open to `ENV`, and, where `CMDTRANS` was kept set, a data phase (10 R67), which `ENV` may start again if it was stale
(93 U21). -/
def Periph.commanded (p : Periph) (clear command argument : Word) (rt : Int) : Periph :=
  { p with
    icr := clear, sta := p.sta &&& ~~~clear, argr := argument, cmdr := commandWord p.cmdr command rt
    respOpen := true
    dataSent := p.dataSent || hasFlag p.cmdr cmdtrans
    restartOpen := hasFlag p.cmdr cmdtrans && p.transStale }

/-- The controller when the command has ended with a flag set (10 R61, R67). -/
def Periph.ended (p : Periph) : Periph := { p with cmdr := p.cmdr &&& ~~~cpsmen, respOpen := false }

/-- A controller after a command with a short response. -/
def Periph.answeredShort (p : Periph) (clear command argument : Word) (rt : Int) (index response : Word) : Periph :=
  { (p.commanded clear command argument rt).ended with respcmdr := index, resp1 := response }

/-- A controller after a command with a long response: bit 0 of `RESP4` reads 0 (10 R36). -/
def Periph.answeredLong (p : Periph) (clear command argument : Word) (rt : Int) (x : Reg128) : Periph :=
  { (p.commanded clear command argument rt).ended with resp1 := x.w0, resp2 := x.w1, resp3 := x.w2, resp4 := x.w3 &&& ~~~(1 : Word) }

/-- `q` differs from `p` at most in the registers a command uses (40 R160). -/
def CommandRegistersOnly (p q : Periph) : Prop :=
  q = { p with icr := q.icr, sta := q.sta, argr := q.argr, cmdr := q.cmdr, respcmdr := q.respcmdr, resp1 := q.resp1,
               resp2 := q.resp2, resp3 := q.resp3, resp4 := q.resp4, respOpen := q.respOpen,
               dataSent := q.dataSent, restartOpen := q.restartOpen }

/-- `t` differs from `s` at most in the registers of controller `i`, the session, the mark of an accepted CMD55, the schedule used up to `rest`, and
what the call returned. -/
def ControllerOnly (i : Sdmmc) (rest : List (List Move)) (r : Result) (s t : State) : Prop :=
  t = (((s.setPeriph i (t.periph i)).setSession t.session).setAppCmd t.appCmd).returned rest r

/-- No static flag of a controller is set (10 R58). -/
def Periph.flagsClear (p : Periph) : Prop := p.sta &&& staticFlags = 0

/-- A polled read can start: the FIFO is empty, no flag that ends a polled read is set, and the IDMA is off. -/
def Periph.readyToPoll (p : Periph) : Prop := p.fifo = [] ∧ p.sta &&& pollEnd = 0 ∧ p.idmaen = false

/-! ### Bit fields, written out from 42 R239, 42 R242 to R250, 44 R331 -/

/-- `F(X, hi, lo)` as a natural (42 R239). -/
def bitsOf (x : Reg128) (hi lo : Nat) : Nat :=
  ((x.w0.toNat * 2 ^ 96 + x.w1.toNat * 2 ^ 64 + x.w2.toNat * 2 ^ 32 + x.w3.toNat) / 2 ^ lo) % 2 ^ (hi - lo + 1)

/-- The common CSD fields are the bits of 42 R242. -/
def CsdCommon.agrees (c : CsdCommon) (x : Reg128) : Prop :=
  c.csdStruct.toNat = bitsOf x 127 126 ∧ c.sysSpecVersion.toNat = bitsOf x 125 122 ∧ c.reserved1.toNat = bitsOf x 121 120
    ∧ c.taac.toNat = bitsOf x 119 112 ∧ c.nsac.toNat = bitsOf x 111 104 ∧ c.maxBusClkFrec.toNat = bitsOf x 103 96
    ∧ c.cardComdClasses.toNat = bitsOf x 95 84 ∧ c.rdBlockLen.toNat = bitsOf x 83 80 ∧ c.partBlockRead.toNat = bitsOf x 79 79
    ∧ c.wrBlockMisalign.toNat = bitsOf x 78 78 ∧ c.rdBlockMisalign.toNat = bitsOf x 77 77 ∧ c.dsrImpl.toNat = bitsOf x 76 76

/-- The V1 fields are the bits of 42 R243. -/
def CsdV1.agrees (f : CsdV1) (x : Reg128) : Prop :=
  f.reserved2.toNat = bitsOf x 75 74 ∧ f.deviceSize.toNat = bitsOf x 73 62 ∧ f.maxRdCurrentVDDMin.toNat = bitsOf x 61 59
    ∧ f.maxRdCurrentVDDMax.toNat = bitsOf x 58 56 ∧ f.maxWrCurrentVDDMin.toNat = bitsOf x 55 53
    ∧ f.maxWrCurrentVDDMax.toNat = bitsOf x 52 50 ∧ f.deviceSizeMul.toNat = bitsOf x 49 47

/-- The V2 fields are the bits of 42 R244. -/
def CsdV2.agrees (f : CsdV2) (x : Reg128) : Prop :=
  f.reserved2.toNat = bitsOf x 75 70 ∧ f.deviceSize.toNat = bitsOf x 69 48 ∧ f.reserved2b.toNat = bitsOf x 47 47

/-- The CSD tail fields are the bits of 42 R245. -/
def CsdTail.agrees (c : CsdTail) (x : Reg128) : Prop :=
  c.eraseGrSize.toNat = bitsOf x 46 46 ∧ c.eraseGrMul.toNat = bitsOf x 45 39 ∧ c.wrProtectGrSize.toNat = bitsOf x 38 32
    ∧ c.wrProtectGrEnable.toNat = bitsOf x 31 31 ∧ c.manDeflECC.toNat = bitsOf x 30 29 ∧ c.wrSpeedFact.toNat = bitsOf x 28 26
    ∧ c.maxWrBlockLen.toNat = bitsOf x 25 22 ∧ c.writeBlockPaPartial.toNat = bitsOf x 21 21 ∧ c.reserved3.toNat = bitsOf x 20 17
    ∧ c.contentProtectAppli.toNat = bitsOf x 16 16 ∧ c.fileFormatGroup.toNat = bitsOf x 15 15 ∧ c.copyFlag.toNat = bitsOf x 14 14
    ∧ c.permWrProtect.toNat = bitsOf x 13 13 ∧ c.tempWrProtect.toNat = bitsOf x 12 12 ∧ c.fileFormat.toNat = bitsOf x 11 10
    ∧ c.ecc.toNat = bitsOf x 9 8 ∧ c.csdCRC.toNat = bitsOf x 7 1 ∧ c.reserved4.toNat = bitsOf x 0 0

/-- The CID fields are the bits of 42 R250. -/
def Cid.agrees (c : Cid) (x : Reg128) : Prop :=
  c.manufacturerID.toNat = bitsOf x 127 120 ∧ c.oemAppliID.toNat = bitsOf x 119 104 ∧ c.prodName1.toNat = bitsOf x 103 72
    ∧ c.prodName2.toNat = bitsOf x 71 64 ∧ c.prodRev.toNat = bitsOf x 63 56 ∧ c.prodSN.toNat = bitsOf x 55 24
    ∧ c.reserved1.toNat = bitsOf x 23 20 ∧ c.manufactDate.toNat = bitsOf x 19 8 ∧ c.cidCRC.toNat = bitsOf x 7 1
    ∧ c.reserved2.toNat = bitsOf x 0 0

/-- The bits [hi:lo] of the SD status whose bytes are `b`, byte 0 holding bits [511:504] (44 R331). -/
def ssrField (b : List Byte) (hi lo : Nat) : Nat := (b.foldl (fun n x => n * 256 + x.toNat) 0 / 2 ^ lo) % 2 ^ (hi - lo + 1)

/-- The parsed SD status is the bits of 44 R331. -/
def SdStatus.agrees (x : SdStatus) (b : List Byte) : Prop :=
  x.dataBusWidth.toNat = ssrField b 511 510 ∧ x.securedMode.toNat = ssrField b 509 509 ∧ x.cardType.toNat = ssrField b 495 480
    ∧ x.protectedAreaSize.toNat = ssrField b 479 448 ∧ x.speedClass.toNat = ssrField b 447 440
    ∧ x.performanceMove.toNat = ssrField b 439 432 ∧ x.allocationUnitSize.toNat = ssrField b 431 428
    ∧ x.eraseSize.toNat = ssrField b 423 408 ∧ x.eraseTimeout.toNat = ssrField b 407 402 ∧ x.eraseOffset.toNat = ssrField b 401 400

/-! ### Families of instructions -/

/-- What the operation that called `powerOn` returns where it gives the error `e`: `SD_Init` gives false (60 R351). -/
def PowerCaller.failing (e : Err) : PowerCaller → Result
  | .host => .err e
  | .sdInit _ => .bool false

/-- What the operation that called `findSCR` returns where it gives the error `e`: `SD_Init` gives false (60 R351). -/
def ScrCaller.failing (e : Err) : ScrCaller → Result
  | .host | .wideBus _ .host => .err e
  | .wideBus _ .sdInit => .bool false

/-- What the operation that called `wideBusOperationConfig` returns where it gives `Ok`. -/
def WideCaller.succeeding : WideCaller → Result
  | .host => .err .ok
  | .sdInit => .bool true

/-- `SD_ReadBlocks_DMA` or `SD_WriteBlocks_DMA`. -/
def transferCall : Dir → Word → Word → Word → Word → Instr
  | .read => .sdReadBlocksDMA
  | .write => .sdWriteBlocksDMA

/-- `SD_CheckRead` or `SD_CheckWrite`. -/
def checkCall : Dir → Instr
  | .read => .sdCheckRead
  | .write => .sdCheckWrite

/-- The interrupt entry of a controller. -/
def irqEntry : Sdmmc → Instr
  | .sdmmc1 => .sdmmc1IRQHandler
  | .sdmmc2 => .sdmmc2IRQHandler

/-- The instruction contains a type 6 response, which may latch the RCA (40 R184). -/
def Instr.mayLatchRca : Instr → Bool
  | .cmd3 | .decodeR6 _ | .initializeCard | .sdInit _ => true
  | .transmitCommand _ _ rt | .classify _ rt => rt = 6
  | _ => false

/-- The transfer's operands pass the checks of 44 R302. -/
def TransferAdmitted (s : State) (t : CardType) (address buffer numBlocks : Word) : Prop :=
  s.session.cardType = some t ∧ s.xfer.rxCplt = false ∧ s.xfer.txCplt = false ∧ 1 ≤ numBlocks.toNat ∧ numBlocks.toNat ≤ 65535
    ∧ (t = .highCapacity ∨ address.toNat < 2 ^ 23) ∧ buffer.toNat % 4 = 0
    ∧ ∀ k < 512 * numBlocks.toNat, inDmaRegion s.cfg (buffer.toNat + k) = true

/-- The registers an arming call leaves armed (44 R305, R309). -/
def Armed (s : State) (i : Sdmmc) (d : Dir) (buffer numBlocks : Word) (q : Periph) : Prop :=
  CommandRegistersOnly { s.periph i with
    dtimer := s.cfg.dtimer, dlen := BitVec.ofNat 32 (512 * numBlocks.toNat), dctrl := (match d with | .read => 0x92 | .write => 0x90)
    mask := (s.periph i).mask ||| (match d with | .read => 0x12A | .write => 0x11A), idmabase0 := buffer, idmactrl := 1
    dmaCount := 0, exhausted := q.exhausted } q
  ∧ q.cmdr.getLsbD 6 = true

end Sys2Proof.Machine
end

