-- ==== Sys2Proof/Certificates/Slice0/Obligations.lean ====
section
/-! DEFINITION. Obligations.lean: the statements about SDCTL for the provers, file by file of spec/. `s.sched` is what `ENV` and `IRQ` do at the
step boundaries of the instruction (Safety.lean names the schedules); where a statement leaves it free, the statement holds for every schedule. -/

open Sys2Proof Sys2Proof.Machine

/-! ### Encodings (30) -/

/-- Words written out from the tables of 30 R110 and R130 decode to the instructions they stand for. The operand words of CMD17 and CMD18 are the model's
choice (notes/assumptions/5.md), so is the reading of the word 0x1152, whose `CMDTRANS` is kept (notes/assumptions/6.md), and of 0x1229 as ACMD41 without a
CMD55 before it (notes/assumptions/7.md). -/
def Obligations.TableWordsDecode : Prop :=
  decodeTableWord 32 0x00001000 = some .cmd0 ∧ decodeTableWord 32 0x00001302 = some .cmd2 ∧ decodeTableWord 32 0x00001103 = some .cmd3
    ∧ decodeTableWord 32 0x00001208 = some .cmd8 ∧ decodeTableWord 32 0x0000110D = some .cmd13
    ∧ decodeTableWord 32 0x00001111 = some (.cmd17 0) ∧ decodeTableWord 32 0x00001229 = some .acmd41
    ∧ decodeTableWord 8 0x02 = some (.sdInit 0) ∧ decodeTableWord 8 0x0B = some .sdAbort
    ∧ decodeTableWord 8 0x40 = some .sdmmc1IRQHandler
    ∧ decode true (.command [0x0D, 0x11, 0x00, 0x00]) = .ok .acmd13
    ∧ decode false (.command [0x52, 0x11, 0x00, 0x00, 0x64, 0x00, 0x00, 0x00]) = .ok (.cmd18 100)
    ∧ decode false (.call [0x20, 0x08, 0, 0, 0, 0xAA, 0x01, 0, 0, 0x03, 0, 0, 0]) = .ok (.transmitCommand 8 0x1AA 3)
    ∧ decode false (.call [0x27, 0x01, 0, 0, 0]) = .ok (.wideBusOperationConfig .w4)

/-- The decoder reads back every encoded well-formed instruction, every operand at every value its range admits; only the word that CMD13 and ACMD13
share depends on the command before it. That ACMD6, ACMD41 and ACMD51 are read whatever the command before (30 R111 gives index 6 to CMD6 too, which the
block never issues) is the model's reading (notes/assumptions/7.md), the operand words are its choice (notes/assumptions/5.md). The two functions without
a selector have no encoding. -/
def Obligations.DecodeEncodeAgree : Prop :=
  (∀ i : Instr, (encode i).isSome = i.encodable) ∧
  ∀ (i : Instr) (appCmd : Bool) (c : Code), i.wf = true → i.readAfter appCmd = true → encode i = some c → decode appCmd c = .ok i

/-- Whatever bytes the decoder accepts, the instruction it reads is inside the ranges of 30 R130, has an encoding, and is CMD13 or ACMD13 as 30 R111 tells
them apart. That the words of index 6, 41 and 51 are the ACMD without a CMD55 before them too is the model's reading (notes/assumptions/7.md). -/
def Obligations.DecodedInstructionsAdmitted : Prop :=
  ∀ (appCmd : Bool) (c : Code) (i : Instr), decode appCmd c = .ok i → i.wf = true ∧ i.encodable = true ∧ i.readAfter appCmd = true

/-- A host call with a selector outside the table of 30 R130, or an operand outside its stated range, is refused (30 R131). That this refusal comes first
where another rule refuses the same call under another name (`SD_Init` while a transfer is outstanding, 41 R228; `transmitCommand` with a response type
that is not admitted, 40 R165) is the model's choice (notes/assumptions/33.md). -/
def Obligations.CallsOutsideTableRefused : Prop :=
  (∀ (s : State) (rest : List Line) (sel : Byte) (operands : List Byte), s.hostStep = .idle →
    s.program = .code (.call (sel :: operands)) :: rest →
    sel.toNat ∉ [0x01, 0x02, 0x03, 0x04, 0x05, 0x06, 0x07, 0x08, 0x09, 0x0A, 0x0B, 0x20, 0x21, 0x22, 0x23, 0x24, 0x25, 0x26, 0x27, 0x28, 0x40, 0x41] →
    step s = .refused .badCall) ∧
  (∀ (s : State) (rest : List Line) (sel : Byte) (ops : List Word), s.hostStep = .idle → s.program = .code (callCode sel ops) :: rest →
    ((∃ a, sel = 0x01 ∧ ops = [a] ∧ 2 ≤ a.toNat) ∨ (∃ d, sel = 0x02 ∧ ops = [d] ∧ 1024 ≤ d.toNat)
      ∨ (∃ c a rt, sel = 0x20 ∧ ops = [c, a, rt] ∧ 64 ≤ c.toNat) ∨ (∃ c rt, sel = 0x21 ∧ ops = [c, rt] ∧ 64 ≤ c.toNat)
      ∨ (∃ a, sel = 0x27 ∧ ops = [a] ∧ 3 ≤ a.toNat)) →
    step s = .refused .badCall) ∧
  (∀ (s : State) (d : Word), 1024 ≤ d.toNat → exec (.sdInit d) s = .refused .badCall) ∧
  (∀ (s : State) (c a rt : Word), 64 ≤ c.toNat → exec (.transmitCommand c a rt) s = .refused .badCall ∧ exec (.classify c rt) s = .refused .badCall)

/-- The fields of the word the transport writes over the word `CMDR` holds, the `WAITRESP` code of every response type, and the refusal of every other
response type (30 R100 to R102). That a command index which 30 R110 does not list is refused as `commandNotIssued`, also where the response type is not
admitted and 30 R102 and 40 R165 give `BadResponseType`, is the model's: 93 U24 refuses such a command and names no order, and 30 R132 says only that the
block never writes it (notes/assumptions/5.md, 33.md). -/
def Obligations.CommandWordFields : Prop :=
  (∀ (old c : Word) (rt : Int), c.toNat < 64 →
    (commandWord old c rt).extractLsb' 0 6 = c.extractLsb' 0 6 ∧
    (commandWord old c rt).extractLsb' 6 2 = old.extractLsb' 6 2 ∧
    (rt = 0 → (commandWord old c rt).extractLsb' 8 2 = 0) ∧ (rt = 1 ∨ rt = 6 → (commandWord old c rt).extractLsb' 8 2 = 1) ∧
    (rt = 3 → (commandWord old c rt).extractLsb' 8 2 = 2) ∧ (rt = 2 → (commandWord old c rt).extractLsb' 8 2 = 3) ∧
    (commandWord old c rt).extractLsb' 10 2 = 0 ∧ (commandWord old c rt).getLsbD 12 = true ∧
    (commandWord old c rt).extractLsb' 13 3 = old.extractLsb' 13 3 ∧ (commandWord old c rt).getLsbD 16 = false ∧
    (commandWord old c rt).extractLsb' 17 15 = old.extractLsb' 17 15) ∧
  (∀ (s : State) (c a rt : Word), c.toNat < 64 →
    (c.toNat ∈ [0, 2, 3, 6, 7, 8, 9, 12, 13, 16, 17, 18, 24, 25, 41, 51, 55] → rt ≠ 0 → rt ≠ 1 → rt ≠ 2 → rt ≠ 3 → rt ≠ 6 →
      exec (.transmitCommand c a rt) s = .refused .badResponseType) ∧
    (c.toNat ∉ [0, 2, 3, 6, 7, 8, 9, 12, 13, 16, 17, 18, 24, 25, 41, 51, 55] → exec (.transmitCommand c a rt) s = .refused .commandNotIssued))

/-! ### Steps (10 section 3, 30 R135, 60 section 5) -/

/-- A step runs the instruction that the line at the head of the program decodes to, the line moved past; a line that decodes to none is refused
(notes/assumptions/35.md); a held operation goes on, and a call that stands before its first statement runs; without a line `HOST` makes no call.
`withFetchWord` places an opcode-table word where the next step fetches it. The model's choices: the program as a list of lines (notes/assumptions/3.md), that
what a line 0x110D means is fixed where it is fetched, before an interrupt inside its command can send a CMD12 (notes/assumptions/7.md, unsafe), that a call
with an empty path runs and a held one goes on from its wait (notes/assumptions/4.md), and that the host program's loads and stores take no slot of the
schedule (notes/assumptions/36.md). -/
def Obligations.StepRunsDecodedInstruction : Prop :=
  (∀ (s : State) (c : Code) (rest : List Line), s.hostStep = .idle → s.program = .code c :: rest →
    (∀ i, decode s.appCmd c = .ok i → step s = exec i { s with program := rest }) ∧
    (∀ e, decode s.appCmd c = .error e → step s = .refused .badCall)) ∧
  (∀ (s : State) (p : Place) (path : List Point), s.hostStep = .inside p path → (∀ i, p = .call i → path ≠ []) → step s = resume p s) ∧
  (∀ (s : State) (i : Instr), s.hostStep = .inside (.call i) [] → step s = exec i (s.setHostStep .idle)) ∧
  (∀ s : State, s.hostStep = .idle → s.program = [] → step s = runIdle s) ∧
  (∀ (s : State) (l : Line) (rest : List Line), s.hostStep = .idle → s.program = l :: rest → (∀ c, l ≠ .code c) →
    step s = runOutside l { s with program := rest }) ∧
  (∀ (s : State) (nbits w : Nat) (i : Instr), decode s.appCmd (tableCode nbits w) = .ok i →
    step (s.withFetchWord nbits w) = exec i { s with hostStep := .idle })

/-- 60 R370 to R372: a pending interrupt (60 R355, 10 R60) of the bound controller is taken at a step boundary of `HOST`, which stands at the step it is
about to take (10 R49): the whole handler runs, with `IRQ` before its first statement when it starts and idle after it, and then the step of `HOST`; one of
the controller that is not bound is refused (60 R356, 93 U6); what is not pending, not routed or met by a running handler is not taken. Which boundary is chosen by the schedule (notes/assumptions/1.md), the points and paths of a
position are the model's (notes/assumptions/4.md). -/
def Obligations.InterruptTakenAtAStepBoundary : Prop :=
  ∀ (s : State) (i : Sdmmc) (pt : Point) (rest : List (List Move)), s.sched = [.irq i] :: rest →
    ((s.periph i).sta &&& (s.periph i).mask ≠ 0 → (s.periph i).routed = true → s.irqStep = .idle → s.session.bound = some i →
      hostFrame.step pt s = (do
        update (fun t => t.setIrqStep (.inside []))
        irqHandler
        update (fun t => t.setIrqStep .idle)) ((s.setSched rest).moved .host [pt])) ∧
    ((s.periph i).sta &&& (s.periph i).mask = 0 ∨ (s.periph i).routed = false ∨ s.irqStep ≠ .idle →
      hostFrame.step pt s = .ok () ((s.setSched rest).moved .host [pt])) ∧
    ((s.periph i).sta &&& (s.periph i).mask ≠ 0 → (s.periph i).routed = true → s.irqStep = .idle → s.session.bound ≠ some i →
      hostFrame.step pt s = .error (.refused .badCall) ((s.setSched rest).moved .host [pt]))

/-! ### Memory and the liberties of the environment (20, 10 section 6) -/

/-- 20 R80: `MemWrite` stores `n` bytes, the least significant at the lowest address, and `MemRead` returns them; every other address reads as before and
the list stays in canonical form. That addresses wrap modulo 2^32 is the model's reading (notes/assumptions/18.md). -/
def Obligations.MemReadsWhatMemWriteStored : Prop :=
  ∀ (m : List Host.Cell) (a n v : Nat), Memory.wf m = true → n ≤ 2 ^ 32 → v < 256 ^ n →
    memRead (memWrite m a n v) a n = v ∧
    (∀ j < n, (Memory.read ((a + j) % 2 ^ 32) (memWrite m a n v)).toNat = v / 256 ^ j % 256) ∧
    (∀ c, (∀ j < n, c ≠ (a + j) % 2 ^ 32) → Memory.read c (memWrite m a n v) = Memory.read c m) ∧
    Memory.wf (memWrite m a n v) = true

/-- 20 R82: on a read transfer the IDMA stores the card's bytes at `IDMABASE0 + k`, `k` rising, and `DATAEND` is not set before all `DATALENGTH` bytes
are stored; on a write transfer it sends the bytes of the buffer in that order and stores nothing. `k` is how many bytes it has moved. That `IDMABASE0 + k`
wraps modulo 2^32 is the model's reading (notes/assumptions/18.md); a buffer with raced bytes is left to BufferRacesAreDraws. A byte sent from a write buffer in
use keeps its address, so that a later store there can race with it (20 R91; notes/assumptions/23.md). -/
def Obligations.IdmaMovesTheBuffer : Prop :=
  ∀ (s : State) (i : Sdmmc), (s.periph i).idmactrl.getLsbD 0 = true →
    (s.periph i).dctrl.getLsbD 0 = true ∨ (s.periph i).dataSent = true →
    ((s.periph i).dctrl.getLsbD 1 = true → Memory.wf s.mem = true → ∀ bytes : List Byte,
      (s.periph i).dmaCount + bytes.length ≤ ((s.periph i).dlen.extractLsb' 0 25).toNat →
      let t := applyEnv (.dmaStore i bytes) s
      (∀ j < bytes.length, Memory.read (((s.periph i).idmabase0.toNat + (s.periph i).dmaCount + j) % 2 ^ 32) t.mem = bytes.getD j 0) ∧
      (∀ c, (∀ j < bytes.length, c ≠ ((s.periph i).idmabase0.toNat + (s.periph i).dmaCount + j) % 2 ^ 32) →
        Memory.read c t.mem = Memory.read c s.mem) ∧
      (t.periph i).dmaCount = (s.periph i).dmaCount + bytes.length) ∧
    ((s.periph i).dctrl.getLsbD 1 = true → (s.periph i).dmaCount < ((s.periph i).dlen.extractLsb' 0 25).toNat → ∀ flags,
      ((applyEnv (.dataFlags i flags) s).periph i).sta.getLsbD 8 = (s.periph i).sta.getLsbD 8) ∧
    ((s.periph i).dctrl.getLsbD 1 = false → s.tainted = [] → ∀ n : Nat,
      (s.periph i).dmaCount + n ≤ ((s.periph i).dlen.extractLsb' 0 25).toNat →
      let t := applyEnv (.dmaSend i n) s
      let source := fun j => ((s.periph i).idmabase0.toNat + (s.periph i).dmaCount + j) % 2 ^ 32
      t.sent = s.sent ++ (List.range n).map (fun j => ⟨Memory.read (source j) s.mem,
        if s.windows.any (fun w => w.dir = .write ∧ w.base ≤ source j ∧ source j < w.base + w.len) then some (source j) else none⟩) ∧ t.mem = s.mem ∧
      (t.periph i).dmaCount = (s.periph i).dmaCount + n)

/-- 10 R59, R67, 20 R95: `ENV` clears no static flag, and sets one only with its cause: a command flag of a started command (`CMDSENT` without a response,
the four of `RESP_WAIT` with one), a data flag of a data phase, `IDMATE` while the IDMA is enabled. A command counts as started while `CPSMEN` is 1: the
model's reading (notes/assumptions/24.md). `ENV` writes no session, no Transfer State and no position of
`HOST` or `IRQ`. -/
def Obligations.EnvSetsOnlyCausedFlags : Prop :=
  ∀ (m : Move) (s : State),
    (∀ (i : Sdmmc) (n : Nat), (0x1FE00FFF : Word).getLsbD n = true →
      ((s.periph i).sta.getLsbD n = true → ((applyEnv m s).periph i).sta.getLsbD n = true) ∧
      ((s.periph i).sta.getLsbD n = false → ((applyEnv m s).periph i).sta.getLsbD n = true →
        ((s.periph i).cmdr.getLsbD 12 = true ∧
          (if (s.periph i).cmdr.extractLsb' 8 2 = 0 then n = 7 else n = 0 ∨ n = 2 ∨ n = 6 ∨ n = 21)) ∨
        (((s.periph i).dctrl.getLsbD 0 = true ∨ (s.periph i).dataSent = true) ∧ (0x18000F3A : Word).getLsbD n = true) ∨
        ((s.periph i).idmactrl.getLsbD 0 = true ∧ n = 27))) ∧
    (applyEnv m s).session = s.session ∧ (applyEnv m s).xfer = s.xfer ∧ (applyEnv m s).hostStep = s.hostStep ∧
    (applyEnv m s).irqStep = s.irqStep ∧ (applyEnv m s).cfg = s.cfg

/-- 20 R91, R90, 70 R428 (the marks are the model's, notes/assumptions/23.md): a host load from a read buffer in use, or from one whose bytes the host may see
stale, gives a free value; a host store to a write buffer in use, and any store where there are no cache hooks, makes the byte the card receives from then on
a free value, and in a write buffer in use also the bytes the card has already received from that address; an access to a read buffer in use leaves it
stale; every other load and store, in a buffer of the other direction too, reads and writes memory. -/
def Obligations.BufferRacesAreDraws : Prop :=
  ∀ (s : State) (a : Word),
    let inUse := fun (d : Dir) (w : Buffer) => w ∈ s.windows ∧ w.dir = d ∧ w.base ≤ a.toNat ∧ a.toNat < w.base + w.len
    let isStale := ∃ w ∈ s.stale, w.base ≤ a.toNat ∧ a.toNat < w.base + w.len
    ((∃ w, inUse .read w) ∨ isStale → ∃ z, (∀ w, w ∈ z ↔ w ∈ s.stale ∨ inUse .read w) ∧
      runOutside (.load a) s = .next { s with hostByte := Config.freeByte s.draws, draws := s.draws + 1, stale := z }) ∧
    ((∀ w, ¬inUse .read w) → ¬isStale → runOutside (.load a) s = .next { s with hostByte := Memory.read a.toNat s.mem }) ∧
    (∀ v : Byte, ∃ t, runOutside (.store a v) s = .next t ∧
      let races := fun (x : SentByte) => decide (x.racing = some a.toNat)
      t = { s with
        mem := Memory.write a.toNat v s.mem, stale := t.stale, tainted := t.tainted, sent := t.sent, draws := s.draws + s.sent.countP races } ∧
      t.sent.length = s.sent.length ∧
      (∀ j x, s.sent[j]? = some x → t.sent[j]? = some (if races x then
        { x with byte := Config.freeByte (s.draws + (s.sent.take j).countP races) } else x)) ∧
      (∀ w, w ∈ t.stale ↔ w ∈ s.stale ∨ inUse .read w) ∧
      (∀ c, c ∈ t.tainted ↔ c ∈ s.tainted ∨ (c = a.toNat ∧ ((∃ w, inUse .write w) ∨ s.cfg.cacheHooks = false))) ∧
      (a.toNat ∈ t.tainted → byteForCard t a.toNat = (Config.freeByte t.draws, t.setDraws (t.draws + 1))) ∧
      (a.toNat ∉ t.tainted → Memory.wf s.mem = true → byteForCard t a.toNat = (v, t)))

/-! ### Reset and the invariant (70 R401) -/

/-- 70 R401: the reset value of every piece of state; a read of the empty FIFO gives any value. -/
def Obligations.ResetValues : Prop :=
  State.reset.session = ⟨none, none, ⟨none, none, none, none⟩, ⟨none, none, none, none⟩,
    ⟨none, none, none, none, none, none, none, none, none, none⟩, none, ⟨none, none⟩, none, none, false⟩ ∧
  State.reset.xfer = ⟨none, false, .ok, false, false⟩ ∧ State.reset.hostStep = .idle ∧ State.reset.irqStep = .idle ∧
  (∀ (i : Sdmmc) (r : Reg), r ≠ .fifo → (State.reset.periph i).value r = 0) ∧
  (∀ i : Sdmmc, (State.reset.periph i).fifo = [] ∧ (State.reset.periph i).routed = false) ∧
  (∀ (s : State) (i : Sdmmc) (pt : Point), s.session.bound = some i → (s.periph i).fifo = [] → s.sched = [] →
    ∃ t, regRead hostFrame pt .fifo s = .ok (Config.freeWord s.draws) t ∧ t.draws = s.draws + 1)

/-- The invariant holds after reset. -/
def Obligations.SoundAtReset : Prop := Sound State.reset

/-- Every step keeps the invariant, whatever `ENV` and `IRQ` do at the step boundaries: memory stays canonical, `CardType` stays unwritten or one of
the three types `powerOn` leaves (10 R31), the reserved bits of `STA` read 0, `RXFIFOE` follows the FIFO of a polled read, `MASK` enables only data-path
sources, `DTMODE` stays block and `WIDBUS` a legal width, no handler runs between steps, and `HOST` is idle or holds in a wait (00 R13). -/
def Obligations.StepKeepsSound : Prop := ∀ s t : State, Sound s → step s = .next t → Sound t

/-! ### The transport and the classifier (40) -/

/-- A type 1 command that the card answers at poll `k + 1` within the budget: its result by the cascade of 40 R170 (timeout, CRC, index, card
status), and the whole state after it. The mark of an accepted CMD55 is the model's (notes/assumptions/7.md), and so is that CMD17, CMD18, CMD24 and CMD25 run
with a wrapping address for a block number of 2^23 or more on a card that is not high-capacity (notes/assumptions/32.md). -/
def Obligations.StatusCommandResult : Prop :=
  ∀ (s : State) (i : Sdmmc) (x : Instr) (c a : Word) (k : Nat) (index response flags : Word),
    commandRow s.session x = some (c, a, 1) → s.session.bound = some i → k < s.cfg.cmdBudget →
    s.sched = quiet (4 + k) ++ [shortAnswer i index response flags] → flags &&& respWait ≠ 0 →
    let e : Err := if flags.getLsbD 2 then .timeout else if flags.getLsbD 0 then .crcFail
      else if index.toNat % 64 = c.toNat then decodeCardStatus response else .illegalCommand
    exec x s = .next (((s.setPeriph i ((s.periph i).answeredShort s.clearMask c a 1 index response)).setAppCmd
      (decide (c = 55 ∧ e = .ok))).returned [] (.err e))

/-- A type 3 command (CMD8, ACMD41) that the card answers: the timeout flag gives `Timeout`, anything else `Ok`; no CRC and no index check (40 R172). -/
def Obligations.ProbeCommandResult : Prop :=
  ∀ (s : State) (i : Sdmmc) (x : Instr) (c a : Word) (k : Nat) (index response flags : Word),
    commandRow s.session x = some (c, a, 3) → s.session.bound = some i → k < s.cfg.cmdBudget →
    s.sched = quiet (4 + k) ++ [shortAnswer i index response flags] → flags &&& respWait ≠ 0 →
    let e : Err := if flags.getLsbD 2 then .timeout else .ok
    exec x s = .next (((s.setPeriph i ((s.periph i).answeredShort s.clearMask c a 3 index response)).setAppCmd
      (decide (c = 55 ∧ e = .ok))).returned [] (.err e))

/-- A type 2 command (CMD2, CMD9) that the card answers: timeout, then CRC failure, else `Ok`; the four response words stand in `RESP1` to `RESP4`, bit 0
of the last 0 (40 R173, R175, 10 R36). -/
def Obligations.LongCommandResult : Prop :=
  ∀ (s : State) (i : Sdmmc) (x : Instr) (c a : Word) (k : Nat) (w : Reg128) (flags : Word),
    commandRow s.session x = some (c, a, 2) → s.session.bound = some i → k < s.cfg.cmdBudget →
    s.sched = quiet (4 + k) ++ [longAnswer i w flags] → flags &&& respWait ≠ 0 →
    let e : Err := if flags.getLsbD 2 then .timeout else if flags.getLsbD 0 then .crcFail else .ok
    exec x s = .next (((s.setPeriph i ((s.periph i).answeredLong s.clearMask c a 2 w)).setAppCmd
      (decide (c = 55 ∧ e = .ok))).returned [] (.err e))

/-- A command without a response (CMD0) whose end `ENV` reports with `CMDSENT`: `Ok`, and no response register is written (40 R163, R171). -/
def Obligations.NoResponseCommandResult : Prop :=
  ∀ (s : State) (i : Sdmmc) (x : Instr) (c a : Word) (k : Nat), commandRow s.session x = some (c, a, 0) → s.session.bound = some i →
    k < s.cfg.cmdBudget → s.sched = quiet (4 + k) ++ [[.cmdFlags i cmdsent, .cmdEnd i]] →
    exec x s = .next (((s.setPeriph i ((s.periph i).commanded s.clearMask c a 0).ended).setAppCmd (decide (c = 55))).returned [] (.err .ok))

/-- A type 6 command (CMD3) that the card answers: timeout, CRC and index first; then zero error bits latch the RCA from bits [31:16], and the general,
illegal and CRC bits give their errors in that order with the RCA kept (40 R174, R180, R184). -/
def Obligations.RelativeAddressCommandResult : Prop :=
  ∀ (s : State) (i : Sdmmc) (x : Instr) (c a : Word) (k : Nat) (index response flags : Word),
    commandRow s.session x = some (c, a, 6) → s.session.bound = some i → k < s.cfg.cmdBudget →
    s.sched = quiet (4 + k) ++ [shortAnswer i index response flags] → flags &&& respWait ≠ 0 →
    let e : Err := if flags.getLsbD 2 then .timeout else if flags.getLsbD 0 then .crcFail
      else if index.toNat % 64 ≠ c.toNat then .illegalCommand else if response &&& 0x0000E000 = 0 then .ok
      else if response.getLsbD 13 then .generalUnknownError else if response.getLsbD 14 then .illegalCmd else .comCrcFailed
    let n : Session := if e = .ok then { s.session with rca := some (response.extractLsb' 16 16) } else s.session
    exec x s = .next ((((s.setPeriph i ((s.periph i).answeredShort s.clearMask c a 6 index response)).setSession n).setAppCmd
      (decide (c = 55 ∧ e = .ok))).returned [] (.err e))

/-- 40 R166: when no poll of the budget sees a flag of the wait set, the result is `Timeout`, `classify` is not run (nothing is latched) and the command
flags are left clear, whatever else `ENV` does (a flag after the last poll, data flags, responses). The words written to `ARGR` and `CMDR` are those of
30 R110 with the arguments of 30 R106; that CMD17, CMD18, CMD24 and CMD25 run with a wrapping address for a block number of 2^23 or more on a card that is not
high-capacity is the model's (notes/assumptions/32.md). -/
def Obligations.SilentCommandTimesOut : Prop :=
  ∀ (s : State) (i : Sdmmc) (x : Instr) (c a : Word) (rt : Int), commandRow s.session x = some (c, a, rt) → s.session.bound = some i →
    (s.sched = [] →
      exec x s = .next (((s.setPeriph i ((s.periph i).commanded s.clearMask c a rt)).setAppCmd false).returned [] (.err .timeout))) ∧
    (NoInterrupt s →
      (∀ slot ∈ (s.sched.drop 1).take (3 + s.cfg.cmdBudget), ∀ flags, .cmdFlags i flags ∈ slot → flags &&& waitSet rt = 0) →
      ∃ t, exec x s = .next t ∧ t.result = .err .timeout ∧ t.hostStep = .idle ∧ t.appCmd = false ∧ t.session = s.session ∧ t.xfer = s.xfer ∧
        t.sched = s.sched.drop (5 + s.cfg.cmdBudget) ∧
        (t.periph i).argr = a ∧ (t.periph i).cmdr.extractLsb' 0 6 = c.extractLsb' 0 6 ∧
        (t.periph i).cmdr.extractLsb' 8 2 = (if rt = 0 then 0 else if rt = 2 then 3 else if rt = 3 then 2 else 1) ∧
        (t.periph i).icr = s.clearMask ∧ (t.periph i).sta &&& s.clearMask = 0)

/-- 40 R167: every path of a command ends with the clear of `CLEARSET`, whatever `ENV` and `IRQ` do; a refused response type is no path and leaves no
state. -/
def Obligations.CommandEndsCleared : Prop :=
  (∀ (s t : State) (i : Sdmmc) (x : Instr) (c a : Word) (rt : Int), commandRow s.session x = some (c, a, rt) → s.session.bound = some i →
    exec x s = .next t → (t.periph i).icr = s.clearMask ∧ (t.periph i).sta &&& s.clearMask = 0) ∧
  (∀ (s : State) (c a rt : Word), c ∈ issuedCommands → responseTypeAdmitted rt.toInt = false →
    exec (.transmitCommand c a rt) s = .refused .badResponseType)

/-- Every command of 30 R110 returns a result whatever `ENV` does while it runs, and what it leaves unchanged: the Transfer State, the session but for the
RCA of a type 6 response, every byte of memory outside the buffers the IDMAs store to, the handler's position, the parameters, the SD status structures and
bytes, the byte the host loaded, the buffers' marks and the program. `ENV` may change the pin, whether a `Delay` would wait, the bytes sent to the card and the count of
free values meanwhile. That a buffer's addresses wrap modulo 2^32 is the model's reading (notes/assumptions/18.md), and that CMD17, CMD18, CMD24 and CMD25 run with a
wrapping address for a block number of 2^23 or more on a card that is not high-capacity is its choice (notes/assumptions/32.md). -/
def Obligations.CommandsReturn : Prop :=
  ∀ (s : State) (i : Sdmmc) (x : Instr) (c a : Word) (rt : Int), commandRow s.session x = some (c, a, rt) → s.session.bound = some i →
    NoInterrupt s → ∃ (e : Err) (t : State), exec x s = .next t ∧ t.result = .err e ∧ t.hostStep = .idle ∧ t.appCmd = decide (c = 55 ∧ e = .ok) ∧
      t.session = { s.session with rca := t.session.rca } ∧ (rt ≠ 6 ∨ e ≠ .ok → t.session = s.session) ∧ t.xfer = s.xfer ∧
      t.irqStep = s.irqStep ∧ t.cfg = s.cfg ∧ t.structs = s.structs ∧ t.ssr = s.ssr ∧ t.hostByte = s.hostByte ∧ t.windows = s.windows ∧
      t.tainted = s.tainted ∧ t.stale = s.stale ∧ t.program = s.program ∧
      ((∀ slot ∈ s.sched, ∀ m ∈ slot, ∀ j bytes, m ≠ .dmaStore j bytes) → t.mem = s.mem) ∧
      (∀ address, (∀ j, ∀ k < ((s.periph j).dlen.extractLsb' 0 25).toNat, address ≠ ((s.periph j).idmabase0.toNat + k) % 2 ^ 32) →
        Memory.read address t.mem = Memory.read address s.mem)

/-- A register access reaches the register at the bound controller's base plus the register's offset, and no other (10 R38, R51, 20 R81); one made while
no controller is bound is `Fault(Unbound)` (10 R38), and so is every instruction that comes to one, whatever `ENV` does: the commands, the operations that
begin with an access, and those that come to one after their checks (the detection of the card, the class and mode of the wide bus, the RCA, the transfer's
operands, the recorded error). -/
def Obligations.UnboundAccessFaults : Prop :=
  (∀ (i : Sdmmc) (r : Reg) (offset : Word),
    (r, offset) ∈ [(.power, 0x00), (.clkcr, 0x04), (.argr, 0x08), (.cmdr, 0x0C), (.respcmdr, 0x10), (.resp1, 0x14), (.resp2, 0x18), (.resp3, 0x1C),
      (.resp4, 0x20), (.dtimer, 0x24), (.dlen, 0x28), (.dctrl, 0x2C), (.dcntr, 0x30), (.sta, 0x34), (.icr, 0x38), (.mask, 0x3C), (.acktimer, 0x40),
      (.idmactrl, 0x50), (.idmabsize, 0x54), (.idmabase0, 0x58), (.idmabase1, 0x5C), (.fifo, 0x80)] →
    registerAddress i r = (match i with | .sdmmc1 => 0x52007000 | .sdmmc2 => 0x48022400) + offset ∧
      registerAt (registerAddress i r) = some (i, r)) ∧
  (∀ (s : State) (pt : Point) (r : Reg) (v : Word), s.session.bound = none → NoInterrupt s →
    (∃ t, regRead hostFrame pt r s = .error (.fault .unbound) t) ∧ ∃ t, regWrite hostFrame pt r v s = .error (.fault .unbound) t) ∧
  (∀ (s : State) (i : Sdmmc) (pt : Point) (r : Reg) (v : Word), s.session.bound = some i → s.sched = [] →
    regWrite hostFrame pt r v s = .ok () ((s.setPeriph i ((s.periph i).write r v)).moved .host [pt]) ∧
    (r ≠ .fifo → regRead hostFrame pt r s = .ok ((s.periph i).value r) (s.moved .host [pt]))) ∧
  (∀ (s : State) (x : Instr) (c a : Word) (rt : Int), s.session.bound = none → NoInterrupt s → commandRow s.session x = some (c, a, rt) →
    exec x s = .fault .unbound) ∧
  (∀ (s : State) (x : Instr) (c rt out d : Word), s.session.bound = none → NoInterrupt s → c.toNat < 64 →
    x ∈ [.powerOn, .initializeCard, .findSCR, .sendSDStatus, .sdGetCardStatus out, .sdAbort, .classify c rt] ∨
      (x = .sdInit d ∧ d.toNat < 1024 ∧ s.xfer.rxCplt = false ∧ s.xfer.txCplt = false ∧
        (s.cfg.detect = true → s.pin = s.cfg.detectLevel ∧ ∀ slot ∈ s.sched.take 3, ∀ m ∈ slot, ∀ level, m ≠ .pin level)) ∨
      (∃ t0 mode, x = .wideBusOperationConfig mode ∧ mode ≠ .w8 ∧ s.session.cardType = some t0 ∧
        (t0 = .standardV1_1 ∨ t0 = .standardV2_0 ∨ t0 = .highCapacity)) ∨
      (∃ rca, x = .sdGetStatus ∧ s.session.rca = some rca) ∨
      (∃ dir t0 address buffer n, x = transferCall dir address buffer 512 n ∧ TransferAdmitted s t0 address buffer n) ∨
      (∃ dir, x = checkCall dir ∧ s.xfer.error ≠ .ok ∧ (s.cfg.checkForm = .errorFirst ∨ inProgress dir s.xfer = true)) →
    exec x s = .fault .unbound)

/-- 10 R33, 70 R405: every instruction that comes to a session field which no rule has written is `Fault(UnwrittenSession)`: those whose first read it is,
and those that come to it after other statements, whatever `ENV` does where no command has to be answered first: the transfer calls after their first three
checks, Abort and the check calls that run it, the retry of a transfer command, `findSCR`, `wideBusOperationConfig`, `sendSDStatus` and `SD_GetCardStatus` after
an answered CMD16, `initializeCard` after CMD2, whatever follows it. The steps the admission of a transfer call takes are the model's
(notes/assumptions/25.md). -/
def Obligations.UnwrittenSessionFaults : Prop :=
  (∀ (s : State) (x : Instr), s.session.rca = none → x ∈ [.cmd7, .cmd9, .cmd13, .cmd55 .rcaArg, .sdGetStatus, .sdGetCardInfo] →
    exec x s = .fault .unwrittenSession) ∧
  (∀ (s : State) (x : Instr) (n : Word) (mode : BusMode), s.session.cardType = none →
    x ∈ [.cmd17 n, .cmd18 n, .cmd24 n, .cmd25 n, .decodeCSD, .sdGetCardInfo, .wideBusOperationConfig mode] → exec x s = .fault .unwrittenSession) ∧
  (∀ s : State, s.session.capArg = none → exec .acmd41 s = .fault .unwrittenSession) ∧
  (∀ (s : State) (t : CardType), s.session.cardType = some t → t = .standardV1_1 ∨ t = .standardV2_0 ∨ t = .highCapacity →
    (s.session.csd.value = none → exec .decodeCSD s = .fault .unwrittenSession) ∧
    (s.session.csd.value = none ∨ s.session.cid.value = none → exec .sdGetCardInfo s = .fault .unwrittenSession)) ∧
  (∀ s : State, s.session.cid.value = none → exec .decodeCID s = .fault .unwrittenSession) ∧
  (∀ (s : State) (d : Dir) (address buffer numBlocks : Word), s.session.cardType = none → NoInterrupt s → s.xfer.rxCplt = false →
    s.xfer.txCplt = false → 1 ≤ numBlocks.toNat → numBlocks.toNat ≤ 65535 →
    exec (transferCall d address buffer 512 numBlocks) s = .fault .unwrittenSession) ∧
  (∀ (s : State) (i : Sdmmc), s.session.bound = some i → s.session.rca = none →
    (NoInterrupt s → exec .sdAbort s = .fault .unwrittenSession) ∧
    (∀ d : Dir, NoInterrupt s → s.xfer.error ≠ .ok → s.cfg.checkForm = .errorFirst ∨ inProgress d s.xfer = true →
      exec (checkCall d) s = .fault .unwrittenSession) ∧
    (∀ (status : Word) (rest : List (List Move)), decodeCardStatus status = .ok →
      (∀ out : Word, s.sched = shortScript i 16 status ++ rest → exec .findSCR s = .fault .unwrittenSession ∧
        exec .sendSDStatus s = .fault .unwrittenSession ∧ exec (.sdGetCardStatus out) s = .fault .unwrittenSession) ∧
      (∀ (t : CardType) (mode : BusMode), s.session.cardType = some t → t = .standardV1_1 ∨ t = .standardV2_0 ∨ t = .highCapacity → mode ≠ .w8 →
        (s.periph i).resp1.getLsbD 25 = false → s.sched = quiet 1 ++ shortScript i 16 status ++ rest →
        exec (.wideBusOperationConfig mode) s = .fault .unwrittenSession) ∧
      (∀ (d : Dir) (t : CardType) (address buffer numBlocks : Word), TransferAdmitted s t address buffer numBlocks →
        s.sched = admissionScript ++ shortScript i 16 status ++ armScript s.cfg.cacheHooks ++ quiet 4 ++ [shortAnswer i 0 0 ccrcfail] ++ quiet 2 ++ rest →
        exec (transferCall d address buffer 512 numBlocks) s = .fault .unwrittenSession))) ∧
  (∀ (s : State) (i : Sdmmc) (cid : Reg128) (rest : List (List Move)), s.session.bound = some i → (s.periph i).power.extractLsb' 0 2 ≠ 0 →
    s.sched = quiet 1 ++ captureScript i cid ++ rest →
    s.session.cardType = none ∨
      (s.session.rca = none ∧ (s.session.cardType = some .secureDigitalIO ∨ s.session.cardType = some .unknown)) →
    exec .initializeCard s = .fault .unwrittenSession)

/-- 40 R170: the cascade of `classify` on the registers as they stand: no response and type 3 (timeout or `Ok`), timeout, CRC failure, type 2, index,
card status, R6; only the RCA may be written. -/
def Obligations.ClassifyCascade : Prop :=
  ∀ (s : State) (i : Sdmmc) (c rt : Word), s.session.bound = some i → s.sched = [] → c.toNat < 64 →
    rt.toInt ≤ 0 ∨ rt = 1 ∨ rt = 2 ∨ rt = 3 ∨ rt = 6 →
    let p := s.periph i
    let e : Err :=
      if rt.toInt ≤ 0 ∨ rt = 3 then (if p.sta.getLsbD 2 then .timeout else .ok)
      else if p.sta.getLsbD 2 then .timeout else if p.sta.getLsbD 0 then .crcFail else if rt = 2 then .ok
      else if p.respcmdr.toNat % 64 ≠ c.toNat then .illegalCommand
      else if rt = 1 then decodeCardStatus p.resp1
      else if p.resp1 &&& 0x0000E000 = 0 then .ok
      else if p.resp1.getLsbD 13 then .generalUnknownError else if p.resp1.getLsbD 14 then .illegalCmd else .comCrcFailed
    let n : Session := if rt = 6 ∧ e = .ok then { s.session with rca := some (p.resp1.extractLsb' 16 16) } else s.session
    exec (.classify c rt) s = .next ((s.setSession n).returned [] (.err e))

/-- 40 R176, R177: the first set bit of the 19 in the table's order gives the result; with none of them set the result is `Ok`; no other bit counts. -/
def Obligations.CardStatusPriority : Prop :=
  ∀ (r : Word) (s : State),
    (r &&& 0xFDFFE008 = 0 → exec (.decodeCardStatus r) s = .next (s.setReturn .idle (.err .ok))) ∧
    ∀ (before after : List (Nat × Err)) (bit : Nat) (e : Err),
      ([(31, .addrOutOfRange), (30, .addrMisaligned), (29, .blockLenErr), (28, .eraseSeqErr), (27, .badEraseParam), (26, .writeProtViolation),
        (24, .lockUnlockFailed), (23, .comCrcFailed), (22, .illegalCmd), (21, .cardEccFailed), (20, .ccError), (19, .generalUnknownError),
        (18, .streamReadUnderrun), (17, .streamWriteOverrun), (16, .cidCsdOverwrite), (15, .wpEraseSkip), (14, .cardEccDisabled),
        (13, .eraseReset), (3, .akeSeqError)] : List (Nat × Err)) = before ++ (bit, e) :: after →
      (∀ x ∈ before, r.getLsbD x.1 = false) → r.getLsbD bit = true →
      exec (.decodeCardStatus r) s = .next (s.setReturn .idle (.err e))

/-- 40 R180: `decodeR6`. -/
def Obligations.RelativeAddressDecoder : Prop :=
  ∀ (r : Word) (s : State),
    (r &&& 0x0000E000 = 0 →
      exec (.decodeR6 r) s = .next ((s.setSession { s.session with rca := some (r.extractLsb' 16 16) }).setReturn .idle (.err .ok))) ∧
    (r.getLsbD 13 = true → exec (.decodeR6 r) s = .next (s.setReturn .idle (.err .generalUnknownError))) ∧
    (r.getLsbD 13 = false → r.getLsbD 14 = true → exec (.decodeR6 r) s = .next (s.setReturn .idle (.err .illegalCmd))) ∧
    (r.getLsbD 13 = false → r.getLsbD 14 = false → r.getLsbD 15 = true → exec (.decodeR6 r) s = .next (s.setReturn .idle (.err .comCrcFailed)))

/-- 40 R184: the RCA is written only on a type 6 response, whatever `ENV` and `IRQ` do; a type 6 command or classification that does not return `Ok`
leaves it as it was. An operation that goes on from a wait leaves it too, but for an `SD_Init` whose `initializeCard` is still to come. -/
def Obligations.OnlyRelativeAddressWritesRca : Prop :=
  (∀ (x : Instr) (s t : State), Instr.mayLatchRca x = false → exec x s = .next t → t.session.rca = s.session.rca) ∧
  (∀ (x : Instr) (s t : State), x = .cmd3 ∨ (∃ c a, x = .transmitCommand c a 6) ∨ (∃ c, x = .classify c 6) ∨ (∃ r, x = .decodeR6 r) →
    exec x s = .next t → t.result ≠ .err .ok → t.session.rca = s.session.rca) ∧
  (∀ s t : State, s.hostStep ≠ .idle → s.hostStep.sound = true → (∀ d path, s.hostStep ≠ .inside (.delay (.sdInit d)) path) → step s = .next t →
    t.session.rca = s.session.rca)

/-! ### Binding, detection and initialization (41) -/

/-- `SD_Initialize_LL` binds the controller, whose registers then hold their reset values and whose interrupt is routed; it writes no other session
field but `Powered`, no Transfer State and nothing of the other controller (41 R200). It is refused while a transfer is in progress and no interrupt ends it, and so is any other
operand value. That the mark of an accepted CMD55 stays (notes/assumptions/7.md), and that what a controller holds beside its registers is put back and its
clock marked as set up (notes/assumptions/22.md), is the model's. -/
def Obligations.InitializeLowLevelBinds : Prop :=
  (∀ (s : State) (rest : List Line) (a : Word), s.hostStep = .idle → s.program = .code (callCode 0x01 [a]) :: rest → 2 ≤ a.toNat →
    step s = .refused .badCall) ∧
  ∀ (s : State) (sel : Sdmmc) (rest : List (List Move)),
    (s.xfer.rxCplt = false → s.xfer.txCplt = false → s.sched = admissionScript ++ quiet 2 ++ rest →
      exec (.sdInitializeLL sel) s = .next (((s.setPeriph sel { Periph.reset with clocked := true, routed := true }).setSession
        { s.session with bound := some sel, powered := false }).returned rest .none)) ∧
    (NoInterrupt s → s.xfer.rxCplt = true ∨ s.xfer.txCplt = true → exec (.sdInitializeLL sel) s = .refused .transferOutstanding)

/-- 41 R201: `SD_IsDetected` is true without a read where `P_DETECT` is false, else whether the pin, at whatever level `ENV` sets it, has the level
`P_DETECT_LEVEL`; it writes no state. -/
def Obligations.IsDetectedReadsThePin : Prop :=
  ∀ (s : State) (level : Bool) (rest : List (List Move)),
    (s.cfg.detect = false → exec .sdIsDetected s = .next (s.setReturn .idle (.bool true))) ∧
    (s.cfg.detect = true → s.sched = [.pin level] :: rest →
      exec .sdIsDetected s = .next ({ s with pin := level }.returned rest (.bool (level == s.cfg.detectLevel))))

/-- `SD_Init` is refused while a transfer is in progress and no interrupt ends it (41 R228); without a card it returns false and writes nothing (R223); the first stage that fails
ends it with false (R225): no later stage runs or writes, and what the stages before it and the failing one wrote stays. The failing stages: `powerOn` with a
silent CMD0, `initializeCard` with a silent CMD2, a select that the card does not answer, a bus width turned away by a locked card. That the refusal comes
before the pin is read, so also where no card is present, and the two steps of the admission are the model's choice (notes/assumptions/25.md). -/
def Obligations.InitStopsAtAFailingStage : Prop :=
  ∀ (s : State) (d : Word) (rest : List (List Move)), d.toNat < 1024 →
    (NoInterrupt s → s.xfer.rxCplt = true ∨ s.xfer.txCplt = true → exec (.sdInit d) s = .refused .transferOutstanding) ∧
    (s.xfer.rxCplt = false → s.xfer.txCplt = false → s.cfg.detect = true → s.pin ≠ s.cfg.detectLevel → s.sched = admissionScript ++ quiet 1 ++ rest →
      exec (.sdInit d) s = .next (s.returned rest (.bool false))) ∧
    (∀ (i : Sdmmc) (status : Word) (busy : List Word) (ocr : Word) (cid csd : Reg128) (r6 locked : Word), s.session.bound = some i →
      s.xfer.rxCplt = false → s.xfer.txCplt = false → (s.cfg.detect = true → s.pin = s.cfg.detectLevel) → (s.periph i).widStale = false →
      s.delayRuns = false →
      decodeCardStatus status = .ok → (∀ o ∈ busy, o.getLsbD 31 = false) → ocr.getLsbD 31 = true → busy.length + 1 < s.cfg.maxVoltTrial →
      r6 &&& 0xE000 = 0 → decodeCardStatus locked = .ok → locked.getLsbD 25 = true →
      let lead := admissionScript ++ quiet (if s.cfg.detect then 1 else 0) ++ quiet 3
      let powered := lead ++ powerOnScript i status true (busy ++ [ocr])
      let negotiated := { s.session with
        powered := true, capArg := some 0x40000000, cardType := some (if ocr.getLsbD 30 then .highCapacity else .standardV2_0) }
      let slow := s.cfg.initClkdiv.setWidth 32
      let stopsAt := fun (clock command : Word) (n : Session) => ∃ t, exec (.sdInit d) s = .next t ∧ ControllerOnly i [] (.bool false) s t ∧
        t.session = n ∧ CommandRegistersOnly { s.periph i with
          clkcr := clock, power := (s.periph i).power ||| (1 <<< s.cfg.polarity) ||| 3, widPrev := (t.periph i).widPrev } (t.periph i) ∧
        (t.periph i).cmdr.extractLsb' 0 6 = command.extractLsb' 0 6
      (s.sched = lead → stopsAt slow 0 { s.session with powered := true, capArg := some 0, cardType := some .standardV1_1 }) ∧
      (s.sched = powered → stopsAt slow 2 negotiated) ∧
      ∃ info : CardInfo, info.cardType = negotiated.cardType ∧ info.rca = some (r6.extractLsb' 16 16) ∧
        let identified := { negotiated with
          cid := .written { cid with w3 := cid.w3 &&& ~~~1 }, csd := .written { csd with w3 := csd.w3 &&& ~~~1 }, rca := some (r6.extractLsb' 16 16)
          cardInfo := info }
        (s.sched = powered ++ identifyScript i cid csd r6 → stopsAt slow 7 identified) ∧
        (s.sched = powered ++ identifyScript i cid csd r6 ++ shortScript i 7 locked ++ quiet 3 → stopsAt d 7 identified))

/-- `powerOn` of a card that becomes ready before the last trial (41 R204 to R209): power switched on with the other bits kept, the card type from CMD8
and the CCS bit, the ACMD41 argument with the capacity request that CMD8 earned. The collaborator of `Delay` returns at once: UnboundedWaitsHold says what
happens while it does not. -/
def Obligations.PowerOnNegotiates : Prop :=
  ∀ (s : State) (i : Sdmmc) (status : Word) (answersProbe : Bool) (busy : List Word) (ocr : Word) (rest : List (List Move)),
    s.session.bound = some i → s.delayRuns = false → decodeCardStatus status = .ok → (∀ o ∈ busy, o.getLsbD 31 = false) → ocr.getLsbD 31 = true →
    busy.length + 1 < s.cfg.maxVoltTrial → s.sched = powerOnScript i status answersProbe (busy ++ [ocr]) ++ rest →
    ∃ t, exec .powerOn s = .next t ∧ ControllerOnly i rest (.err .ok) s t ∧
      t.session = { s.session with
        powered := true
        cardType := some (if ocr.getLsbD 30 then .highCapacity else if answersProbe then .standardV2_0 else .standardV1_1)
        capArg := some (if answersProbe then 0x40000000 else 0) } ∧
      CommandRegistersOnly { s.periph i with power := (s.periph i).power ||| 3 } (t.periph i) ∧
      (t.periph i).argr = (if answersProbe then 0xC0100000 else 0x80100000) ∧ (t.periph i).resp1 = ocr

/-- How `powerOn` fails. 41 R208: a card never ready within `P_MAX_VOLT_TRIAL` trials gives `InvalidVoltageRange`; one that becomes ready on the last trial
gives a free choice between `InvalidVoltageRange` and going on (notes/assumptions/9.md). R205, R207, R215: a failing CMD0, CMD55 or ACMD41 ends it with that
command's result unchanged, inside the trial loop too, and leaves what was written before it. -/
def Obligations.PowerOnFailures : Prop :=
  ∀ (s : State) (i : Sdmmc) (status failing : Word) (answersProbe : Bool) (busy : List Word) (ocr : Word) (rest : List (List Move)),
    s.session.bound = some i → s.delayRuns = false → decodeCardStatus status = .ok → (∀ o ∈ busy, o.getLsbD 31 = false) →
    let probed := { s.session with
      powered := true
      cardType := some (if answersProbe then .standardV2_0 else .standardV1_1)
      capArg := some (if answersProbe then 0x40000000 else 0) }
    let fails := fun (r : List (List Move)) (e : Err) (n : Session) => ∃ t, exec .powerOn s = .next t ∧ ControllerOnly i r (.err e) s t ∧
      t.session = n ∧ CommandRegistersOnly { s.periph i with power := (s.periph i).power ||| 3 } (t.periph i)
    (busy.length = s.cfg.maxVoltTrial → s.sched = powerOnScript i status answersProbe busy ++ rest → fails rest .invalidVoltageRange probed) ∧
    (busy.length + 1 = s.cfg.maxVoltTrial → ocr.getLsbD 31 = true → s.sched = powerOnScript i status answersProbe (busy ++ [ocr]) ++ rest →
      ∃ t, exec .powerOn s = .next t ∧ t.draws = s.draws + 1 ∧
        (Config.freeBool s.draws = true → t.result = .err .invalidVoltageRange) ∧
        (Config.freeBool s.draws = false → t.result = .err .ok ∧ (ocr.getLsbD 30 = true → t.session.cardType = some .highCapacity))) ∧
    (s.sched = quiet 3 → fails [] .timeout { s.session with powered := true, cardType := some .standardV1_1, capArg := some 0 }) ∧
    (decodeCardStatus failing ≠ .ok →
      (s.sched = probedScript i answersProbe ++ shortScript i 55 failing ++ rest → fails rest (decodeCardStatus failing) probed) ∧
      (busy.length < s.cfg.maxVoltTrial → s.sched = powerOnScript i status answersProbe busy ++ shortScript i 55 failing ++ rest →
        fails rest (decodeCardStatus failing) probed)) ∧
    (busy.length < s.cfg.maxVoltTrial → s.sched = powerOnScript i status answersProbe busy ++ shortScript i 55 status ++ quiet 4
        ++ [shortAnswer i 63 0 ctimeout] ++ quiet 2 ++ rest → fails rest .timeout probed)

/-- `initializeCard` of a powered card (41 R210, R212 to R214): CMD2's response becomes `S.CID`, CMD3's the RCA for the SD family, CMD9's `S.CSD`; a card
type outside the family gets no CMD3. -/
def Obligations.InitializeCardCaptures : Prop :=
  ∀ (s : State) (i : Sdmmc) (t0 : CardType) (cid csd : Reg128) (r6 : Word) (rest : List (List Move)), s.session.bound = some i →
    s.session.cardType = some t0 → (s.periph i).power.extractLsb' 0 2 ≠ 0 →
    (t0 = .standardV1_1 ∨ t0 = .standardV2_0 ∨ t0 = .highCapacity ∨ t0 = .secureDigitalIOCombo → r6 &&& 0xE000 = 0 →
      s.sched = identifyScript i cid csd r6 ++ rest →
      ∃ t, exec .initializeCard s = .next t ∧ ControllerOnly i rest (.err .ok) s t ∧
        t.session = { s.session with
          cid := .written { cid with w3 := cid.w3 &&& ~~~1 }, csd := .written { csd with w3 := csd.w3 &&& ~~~1 }, rca := some (r6.extractLsb' 16 16) } ∧
        CommandRegistersOnly (s.periph i) (t.periph i) ∧ (t.periph i).argr = r6.extractLsb' 16 16 ++ 0#16) ∧
    (t0 = .secureDigitalIO ∨ t0 = .unknown → ∀ rca, s.session.rca = some rca →
      s.sched = quiet 1 ++ captureScript i cid ++ captureScript i csd ++ rest →
      ∃ t, exec .initializeCard s = .next t ∧ ControllerOnly i rest (.err .ok) s t ∧
        t.session = { s.session with
          cid := .written { cid with w3 := cid.w3 &&& ~~~1 }, csd := .written { csd with w3 := csd.w3 &&& ~~~1 } })

/-- How `initializeCard` fails. 41 R211: with `PWRCTRL` at 0b00 it reads `POWER` once, writes nothing and gives `RequestNotApplicable`. R212, R214, R216: a
failing CMD2 (by its CRC, or silent), CMD3 (by the error bits of its response, R213, 40 R180) or CMD9 ends it with that result; the session keeps the
fields of the captures not reached, and holds the new ones of those made before. -/
def Obligations.InitializeCardFailures : Prop :=
  ∀ (s : State) (i : Sdmmc) (t0 : CardType) (cid csd : Reg128) (r6 : Word) (rest : List (List Move)), s.session.bound = some i →
    ((s.periph i).power.extractLsb' 0 2 = 0 → s.sched = quiet 1 ++ rest →
      exec .initializeCard s = .next (s.returned rest (.err .requestNotApplicable))) ∧
    ((s.periph i).power.extractLsb' 0 2 ≠ 0 →
      let fails := fun (r : List (List Move)) (e : Err) (command : Word) (n : Session) => ∃ t, exec .initializeCard s = .next t ∧
        ControllerOnly i r (.err e) s t ∧ t.session = n ∧ CommandRegistersOnly (s.periph i) (t.periph i) ∧
        (t.periph i).cmdr.extractLsb' 0 6 = command.extractLsb' 0 6
      let captured := { s.session with cid := .written { cid with w3 := cid.w3 &&& ~~~1 } }
      (s.sched = [] → fails [] .timeout 2 s.session) ∧
      (s.sched = quiet 1 ++ quiet 4 ++ [longAnswer i cid ccrcfail] ++ quiet 2 ++ rest → fails rest .crcFail 2 s.session) ∧
      (s.session.cardType = some t0 → t0 = .standardV1_1 ∨ t0 = .standardV2_0 ∨ t0 = .highCapacity ∨ t0 = .secureDigitalIOCombo →
        (r6 &&& 0xE000 ≠ 0 → s.sched = quiet 1 ++ captureScript i cid ++ shortScript i 3 r6 ++ rest →
          fails rest (if r6.getLsbD 13 then .generalUnknownError else if r6.getLsbD 14 then .illegalCmd else .comCrcFailed) 3 captured) ∧
        (r6 &&& 0xE000 = 0 → s.sched = quiet 1 ++ captureScript i cid ++ shortScript i 3 r6 ++ quiet 4 ++ [longAnswer i csd ccrcfail]
            ++ quiet 2 ++ rest → fails rest .crcFail 9 { captured with rca := some (r6.extractLsb' 16 16) })))

/-- A whole successful `SD_Init` (41 R221 to R230, 42 R240, 43 R285): every stage in order, ending with `true`: the negotiated session, the decoded
capacity, the SCR, the operating clock and the width of `P_BUS_WIDTH` in `CLKCR`, the power and polarity bits, and no Transfer State written. -/
def Obligations.InitSucceeds : Prop :=
  ∀ (s : State) (i : Sdmmc) (d status : Word) (busy : List Word) (ocr : Word) (cid csd : Reg128) (r6 selected w0 w1 : Word)
    (rest : List (List Move)), d.toNat < 1024 → s.session.bound = some i → s.xfer.rxCplt = false → s.xfer.txCplt = false →
    (s.cfg.detect = true → s.pin = s.cfg.detectLevel) → (s.periph i).readyToPoll → (s.periph i).widStale = false → s.delayRuns = false →
    decodeCardStatus status = .ok → (∀ o ∈ busy, o.getLsbD 31 = false) → ocr.getLsbD 31 = true → busy.length + 1 < s.cfg.maxVoltTrial → r6 &&& 0xE000 = 0 →
    decodeCardStatus selected = .ok → selected.getLsbD 25 = false →
    widthSupported ⟨bswap w0, bswap w1⟩ s.cfg.busWidth = true →
    s.sched = initScript i s.cfg.detect status (busy ++ [ocr]) cid csd r6 selected w0 w1 ++ rest →
    ∃ t, exec (.sdInit d) s = .next t ∧ ControllerOnly i rest (.bool true) s t ∧
      (∃ info : CardInfo,
        t.session = { s.session with
          powered := true, capArg := some 0x40000000, cardType := some (if ocr.getLsbD 30 then .highCapacity else .standardV2_0)
          cid := .written { cid with w3 := cid.w3 &&& ~~~1 }, csd := .written { csd with w3 := csd.w3 &&& ~~~1 }, rca := some (r6.extractLsb' 16 16)
          scr := .written ⟨bswap w0, bswap w1⟩, cardInfo := info } ∧
        info.cardType = t.session.cardType ∧ info.rca = t.session.rca ∧
        info.cardCapacity = some (if ocr.getLsbD 30 then (bitsOf csd 69 48 + 1) * 524288
          else (bitsOf csd 73 62 + 1) * 2 ^ (bitsOf csd 49 47 + 2) * 2 ^ bitsOf csd 83 80) ∧
        info.cardBlockSize = some (if ocr.getLsbD 30 then 512 else 2 ^ bitsOf csd 83 80)) ∧
      (t.periph i).clkcr = (match s.cfg.busWidth with | .w1 => d | .w4 => d ||| 0x4000) ∧
      (t.periph i).power = (s.periph i).power ||| (1 <<< s.cfg.polarity) ||| 3 ∧ (t.periph i).fifo = []

/-- 60 R378, 70 R404: no operation but `SD_Initialize_LL`, whose set-up resets the registers, switches the controller power off: `PWRCTRL` of the bound
controller stays 0b11, whatever `ENV` and `IRQ` do. -/
def Obligations.PowerStaysOn : Prop :=
  (∀ (s t : State) (i : Sdmmc) (x : Instr), (∀ sel, x ≠ .sdInitializeLL sel) → s.session.bound = some i → (s.periph i).power &&& 3 = 3 →
    exec x s = .next t → t.session.bound = some i ∧ (t.periph i).power &&& 3 = 3) ∧
  (∀ (s t : State) (i : Sdmmc), s.hostStep ≠ .idle → s.hostStep.sound = true → s.session.bound = some i → (s.periph i).power &&& 3 = 3 →
    step s = .next t → t.session.bound = some i ∧ (t.periph i).power &&& 3 = 3)

/-! ### The register decoder (42) -/

/-- `decodeCSD` by the card type (42 R241 to R246): the bit ranges of both layouts, the tail, capacity and block size as exact naturals; an unrecognised
class writes nothing. The fields of the other layout are not written, so they keep their values (70 R403): after a decode of V1 `Reserved2b` reads as before;
after a decode of V2 reading a V1-only field is a fault all the same (42 R244). How the two rules fit is the model's reading (DEDUCED,
notes/assumptions/34.md). -/
def Obligations.CsdDecoder : Prop :=
  ∀ (s : State) (t0 : CardType) (x : Reg128), s.session.cardType = some t0 → s.session.csd.value = some x →
    (t0 = .standardV1_1 ∨ t0 = .standardV2_0 → ∃ (c : CsdCommon) (f : CsdV1) (l : CsdTail), c.agrees x ∧ f.agrees x ∧ l.agrees x ∧
      ∃ t, exec .decodeCSD s = .next t ∧ t = (s.setSession { s.session with cardInfo := { s.session.cardInfo with
        csdCommon := some c, csdKind := some .v1, csdV1 := some f, csdTail := some l, cardBlockSize := some (2 ^ bitsOf x 83 80)
        cardCapacity := some ((bitsOf x 73 62 + 1) * 2 ^ (bitsOf x 49 47 + 2) * 2 ^ bitsOf x 83 80) } }).setReturn .idle (.err .ok) ∧
        t.session.cardInfo.v1Fields = .ok f ∧ t.session.cardInfo.reserved2b = s.session.cardInfo.reserved2b) ∧
    (t0 = .highCapacity → ∃ (c : CsdCommon) (f : CsdV2) (l : CsdTail), c.agrees x ∧ f.agrees x ∧ l.agrees x ∧
      ∃ t, exec .decodeCSD s = .next t ∧ t = (s.setSession { s.session with cardInfo := { s.session.cardInfo with
        csdCommon := some c, csdKind := some .v2, csdV2 := some f, csdTail := some l, cardBlockSize := some 512
        cardCapacity := some ((bitsOf x 69 48 + 1) * 524288) } }).setReturn .idle (.err .ok) ∧
        t.session.cardInfo.v1Fields = .error .unwrittenSession ∧ t.session.cardInfo.reserved2b = .ok f.reserved2b) ∧
    (t0 = .secureDigitalIO ∨ t0 = .secureDigitalIOCombo ∨ t0 = .unknown →
      exec .decodeCSD s = .next (s.setReturn .idle (.err .unsupportedFeature)))

/-- 42 R250: `decodeCID` extracts the bit ranges whatever the capacity class, always with `Ok`, and writes only `S.CardInfo.cid`. -/
def Obligations.CidDecoder : Prop :=
  ∀ (s : State) (x : Reg128), s.session.cid.value = some x → ∃ c : Cid, c.agrees x ∧
    exec .decodeCID s = .next ((s.setSession { s.session with cardInfo := { s.session.cardInfo with cid := some c } }).setReturn .idle (.err .ok))

/-- 42 R240: `SD_GetCardInfo` copies the type and the RCA and decodes CSD and CID; where the class is not recognised only the two copies are valid after
it; each unwritten field that it reads is a fault. It reads no register. -/
def Obligations.GetCardInfo : Prop :=
  (∀ (s : State) (t0 : CardType) (rca : BitVec 16) (csd cid : Reg128), s.session.cardType = some t0 → s.session.rca = some rca →
    s.session.csd.value = some csd → s.session.cid.value = some cid →
    (t0 = .standardV1_1 ∨ t0 = .standardV2_0 ∨ t0 = .highCapacity → ∃ info : CardInfo,
      exec .sdGetCardInfo s = .next ((s.setSession { s.session with cardInfo := info }).setReturn .idle (.err .ok)) ∧
      info.cardType = some t0 ∧ info.rca = some rca ∧ (∃ c, info.cid = some c ∧ c.agrees cid) ∧
      (∃ c l d, info.csdCommon = some c ∧ info.layout = some l ∧ info.csdTail = some d ∧ c.agrees csd ∧ d.agrees csd ∧
        (match l with | .v1 f => t0 ≠ .highCapacity ∧ f.agrees csd | .v2 f => t0 = .highCapacity ∧ f.agrees csd)) ∧
      info.cardBlockSize = some (if t0 = .highCapacity then 512 else 2 ^ bitsOf csd 83 80) ∧
      info.cardCapacity = some (if t0 = .highCapacity then (bitsOf csd 69 48 + 1) * 524288
        else (bitsOf csd 73 62 + 1) * 2 ^ (bitsOf csd 49 47 + 2) * 2 ^ bitsOf csd 83 80)) ∧
    (t0 = .secureDigitalIO ∨ t0 = .secureDigitalIOCombo ∨ t0 = .unknown →
      exec .sdGetCardInfo s = .next ((s.setSession { s.session with cardInfo := ⟨some t0, some rca, none, none, none, none, none, none, none, none⟩ }).setReturn .idle
        (.err .unsupportedFeature)))) ∧
  (∀ s : State, s.session.cardType = none ∨ s.session.rca = none → exec .sdGetCardInfo s = .fault .unwrittenSession) ∧
  (∀ (s : State) (t0 : CardType), s.session.cardType = some t0 → t0 = .standardV1_1 ∨ t0 = .standardV2_0 ∨ t0 = .highCapacity →
    s.session.csd.value = none ∨ s.session.cid.value = none → exec .sdGetCardInfo s = .fault .unwrittenSession)

/-! ### Bus configuration (43) -/

/-- `findSCR` (43 R281, R283): the two FIFO words, bytes swapped, become `S.SCR`; a data error is returned in the order timeout, CRC, overrun and
leaves `S.SCR`; a word not received is a free value. `DTIMER`, `DLEN` and `DCTRL` hold what the operation wrote, and every static flag is cleared.
The free value is notes/assumptions/9.md. -/
def Obligations.FindScrReadsTheScr : Prop :=
  ∀ (s : State) (i : Sdmmc) (rca : BitVec 16) (status w0 w1 flags : Word) (rest : List (List Move)), s.session.bound = some i →
    s.session.rca = some rca → (s.periph i).readyToPoll → decodeCardStatus status = .ok →
    let upTo := shortScript i 16 status ++ shortScript i 55 status ++ quiet 3 ++ shortScript i 51 status
    (s.sched = scrScript i status w0 w1 ++ rest →
      ∃ t, exec .findSCR s = .next t ∧ ControllerOnly i rest (.err .ok) s t ∧
        (∃ x : Scr, t.session = { s.session with scr := .written x } ∧
          x.w0 = w0.extractLsb' 0 8 ++ w0.extractLsb' 8 8 ++ w0.extractLsb' 16 8 ++ w0.extractLsb' 24 8 ∧
          x.w1 = w1.extractLsb' 0 8 ++ w1.extractLsb' 8 8 ++ w1.extractLsb' 16 8 ++ w1.extractLsb' 24 8) ∧
        (t.periph i).fifo = [] ∧ (t.periph i).dtimer = s.cfg.dtimer ∧ (t.periph i).dlen = 8 ∧ (t.periph i).dctrl = 0x32 ∧
        (t.periph i).sta &&& staticFlags = 0 ∧ (t.periph i).clkcr = (s.periph i).clkcr ∧ (t.periph i).mask = (s.periph i).mask) ∧
    (s.sched = upTo ++ [[.dataFlags i flags, .dataPhaseEnd i]] ++ quiet 1 ++ rest → flags &&& 0x2A ≠ 0 →
      ∃ t, exec .findSCR s = .next t ∧ t.session = s.session ∧ t.hostStep = .idle ∧ t.sched = rest ∧
        t.result = .err (if flags.getLsbD 3 then .dataTimeout else if flags.getLsbD 1 then .dataCrcFail else .rxOverrun)) ∧
    (s.sched = upTo ++ [[.dataFlags i dataend, .dataPhaseEnd i]] ++ quiet 2 ++ rest →
      ∃ t, exec .findSCR s = .next t ∧ t.result = .err .ok ∧ t.draws = s.draws + 2 ∧ t.sched = rest ∧
        t.session.scr = .written ⟨bswap (Config.freeWord s.draws), bswap (Config.freeWord (s.draws + 1))⟩)

/-- The waits without a budget (43 R282, R290, R291, 44 R330, 70 R423), whichever operation called them: while `ENV` sets no flag that ends a polled read and
no word is to be read, while a read of `CLKCR` shows the old width, and while the collaborator of `Delay` has not returned, `HOST` holds, step after step. A
data error of the card, its end of data, a read that shows the new width, or the collaborator's return ends the hold, and the operation goes on to its end.
Where `HOST` stands at a hold, the head of the loop in the calls it is in, is the model's (notes/assumptions/4.md). -/
def Obligations.UnboundedWaitsHold : Prop :=
  ∀ (s : State) (i : Sdmmc) (path : List Point) (rest : List (List Move)), s.session.bound = some i →
    (∀ (p : Place) (words : List Word) (limit : Nat) (failing : Err → Result), s.hostStep = .inside p path → (s.periph i).sta &&& pollEnd = 0 →
      (∃ c : ScrCaller, p = .scrLoop c words ∧ limit = 2 ∧ failing = fun e => c.failing e) ∨
        (∃ c : SsrCaller, p = .ssrLoop c words ∧ limit = 16 ∧ failing = .err) →
      (s.sched = [] → (s.periph i).sta.getLsbD 19 = true ∨ words.length = limit → step s = .next (s.setHostStep (.inside p p.path))) ∧
      (∀ flags, (s.periph i).dctrl.getLsbD 0 = true → flags &&& 0x2A ≠ 0 → s.sched = [.dataFlags i flags] :: [] :: rest →
        ∃ t, step s = .next t ∧ t.hostStep = .idle ∧ t.session = s.session ∧ t.sched = rest ∧ (t.periph i).clkcr = (s.periph i).clkcr ∧
          t.result = failing (if flags.getLsbD 3 then .dataTimeout else if flags.getLsbD 1 then .dataCrcFail else .rxOverrun))) ∧
    (∀ (out : Word) (words : List Word), words.length = 16 → (s.periph i).sta &&& pollEnd = 0 → (s.periph i).dctrl.getLsbD 0 = true →
      (s.periph i).idmactrl.getLsbD 0 = false → s.hostStep = .inside (.ssrLoop (.getCardStatus out) words) path →
      s.sched = [.dataFlags i dataend] :: [] :: rest →
      ∃ t x, step s = .next t ∧ t.hostStep = .idle ∧ t.result = .err .ok ∧ t.sched = rest ∧ x.agrees (words.flatMap wordBytes) ∧
        t.session = { s.session with sdStatus := some x } ∧ (out, x) ∈ t.structs) ∧
    (∀ (mode : BusMode) (caller : WideCaller) (rca : BitVec 16) (status w0 w1 : Word), mode ≠ .w8 → s.session.rca = some rca →
      decodeCardStatus status = .ok → (bswap w0).getLsbD (if mode = .w4 then 18 else 16) = true → (s.periph i).sta &&& pollEnd = 0 →
      (s.periph i).dctrl.getLsbD 0 = true → (s.periph i).idmactrl.getLsbD 0 = false → (s.periph i).widStale = false →
      s.hostStep = .inside (.scrLoop (.wideBus mode caller) [w0, w1]) path →
      s.sched = [.dataFlags i dataend, .dataPhaseEnd i] :: [] :: (shortScript i 55 status ++ shortScript i 6 status ++ quiet 3 ++ rest) →
      ∃ t, step s = .next t ∧ t.hostStep = .idle ∧ t.sched = rest ∧ t.result = caller.succeeding ∧
        t.session = { s.session with scr := .written ⟨bswap w0, bswap w1⟩ } ∧
        (t.periph i).clkcr.extractLsb' 14 2 = (if mode = .w4 then 1 else 0)) ∧
    (∀ (caller : WideCaller) (code : BitVec 2), s.hostStep = .inside (.settleLoop caller code) path →
      (s.periph i).clkcr.extractLsb' 14 2 = code →
      ((s.periph i).widStale = true → (s.periph i).widPrev ≠ code → s.sched = [] →
        step s = .next (s.setHostStep (.inside (.settleLoop caller code) (Place.path (.settleLoop caller code))))) ∧
      (s.sched = quiet 2 ++ [[.staleWidbus i false]] ++ rest →
        step s = .next ((s.setPeriph i { s.periph i with widStale := false }).returned rest caller.succeeding))) ∧
    (s.delayRuns = true → s.sched = [] →
      exec .powerOn s = .next (((s.setPeriph i { s.periph i with power := (s.periph i).power ||| 3 }).setSession
        { s.session with powered := true }).setHostStep (.inside (.delay .host) (Place.path (.delay .host))))) ∧
    (∀ caller : PowerCaller, s.hostStep = .inside (.delay caller) path →
      (s.delayRuns = true → s.sched = [] → step s = .next (s.setHostStep (.inside (.delay caller) (Place.path (.delay caller))))) ∧
      (s.sched = [[.delayRuns false]] →
        ∃ t, step s = .next t ∧ t.hostStep = .idle ∧ t.delayRuns = false ∧ t.result = caller.failing .timeout ∧
          t.session = { s.session with cardType := some .standardV1_1, capArg := some 0 } ∧ CommandRegistersOnly (s.periph i) (t.periph i)))

/-- `wideBusOperationConfig` on an unlocked SD-family card whose SCR supports the width (43 R285 to R290): `Ok`, `WIDBUS` holds the code of the width and
every other bit of `CLKCR` is kept. Reads of `CLKCR` that still show the old width make the settle loop go round (R291). -/
def Obligations.WideBusSwitchesWidth : Prop :=
  ∀ (s : State) (i : Sdmmc) (t0 : CardType) (w : BusWidth) (rca : BitVec 16) (status w0 w1 : Word) (n : Nat) (rest : List (List Move)),
    s.session.bound = some i → s.session.cardType = some t0 → t0 = .standardV1_1 ∨ t0 = .standardV2_0 ∨ t0 = .highCapacity →
    s.session.rca = some rca → (s.periph i).readyToPoll → decodeCardStatus status = .ok → (s.periph i).resp1.getLsbD 25 = false →
    (bswap w0).getLsbD (match w with | .w1 => 16 | .w4 => 18) = true → (s.periph i).widStale = false →
    s.sched = wideScript i status w0 w1 ++ rest ∨
      ((s.periph i).clkcr.extractLsb' 14 2 ≠ (match w with | .w1 => 0 | .w4 => 1) ∧
        s.sched = quiet 1 ++ scrScript i status w0 w1 ++ shortScript i 55 status ++ shortScript i 6 status ++ settleScript i n ++ rest) →
    ∃ t, exec (.wideBusOperationConfig (modeOfWidth w)) s = .next t ∧ ControllerOnly i rest (.err .ok) s t ∧
      t.session = { s.session with scr := .written ⟨bswap w0, bswap w1⟩ } ∧
      (t.periph i).clkcr.extractLsb' 14 2 = (match w with | .w1 => 0 | .w4 => 1) ∧
      (t.periph i).clkcr &&& ~~~0xC000 = (s.periph i).clkcr &&& ~~~0xC000 ∧ (t.periph i).argr = (match w with | .w1 => 0 | .w4 => 2) ∧
      (t.periph i).power = (s.periph i).power ∧ (t.periph i).mask = (s.periph i).mask

/-- 43 R285 to R287: what turns `wideBusOperationConfig` away, in its order: a class that is not SD-family, 8-bit, a locked card, each before any command;
then an unsupported width after the SCR read, with `CLKCR` unchanged. -/
def Obligations.WideBusTurnedAway : Prop :=
  ∀ (s : State) (i : Sdmmc) (t0 : CardType) (mode : BusMode) (rca : BitVec 16) (status w0 w1 : Word) (rest : List (List Move)),
    s.session.bound = some i → s.session.cardType = some t0 →
    (t0 = .secureDigitalIO ∨ t0 = .secureDigitalIOCombo ∨ t0 = .unknown ∨ mode = .w8 →
      exec (.wideBusOperationConfig mode) s = .next (s.setReturn .idle (.err .unsupportedFeature))) ∧
    (t0 = .standardV1_1 ∨ t0 = .standardV2_0 ∨ t0 = .highCapacity → mode ≠ .w8 → (s.periph i).resp1.getLsbD 25 = true →
      s.sched = quiet 1 ++ rest → exec (.wideBusOperationConfig mode) s = .next (s.returned rest (.err .lockUnlockFailed))) ∧
    (t0 = .standardV1_1 ∨ t0 = .standardV2_0 ∨ t0 = .highCapacity → mode ≠ .w8 → (s.periph i).resp1.getLsbD 25 = false →
      s.session.rca = some rca → (s.periph i).readyToPoll → decodeCardStatus status = .ok →
      (bswap w0).getLsbD (if mode = .w4 then 18 else 16) = false → s.sched = quiet 1 ++ scrScript i status w0 w1 ++ rest →
      ∃ t, exec (.wideBusOperationConfig mode) s = .next t ∧ ControllerOnly i rest (.err .requestNotApplicable) s t ∧
        (t.periph i).clkcr = (s.periph i).clkcr ∧ t.session = { s.session with scr := .written ⟨bswap w0, bswap w1⟩ })

/-- 43 R289, R290: whatever `ENV` and `IRQ` do, `wideBusOperationConfig` returns `Ok` only with the requested code in `WIDBUS`, and returns an error only
with every bit of `CLKCR` that is not reserved as it was; the same where it goes on from a hold in its `findSCR` or its settle loop, for `SD_Init` too (true
for `Ok`). -/
def Obligations.WidthChangesOnlyOnSuccess : Prop :=
  ∀ (s t : State) (i : Sdmmc) (mode : BusMode), s.session.bound = some i → t.hostStep = .idle →
    let switched := (t.periph i).clkcr.extractLsb' 14 2 = (if mode = .w1 then 0 else 1)
    let kept := (t.periph i).clkcr &&& 0x003FD3FF = (s.periph i).clkcr &&& 0x003FD3FF
    (exec (.wideBusOperationConfig mode) s = .next t → (t.result = .err .ok → switched) ∧ (t.result ≠ .err .ok → kept)) ∧
    (∀ (caller : WideCaller) (words : List Word) (path : List Point), s.hostStep = .inside (.scrLoop (.wideBus mode caller) words) path → step s = .next t →
      (t.result = .err .ok ∨ t.result = .bool true → switched) ∧ (t.result ≠ .err .ok → t.result ≠ .bool true → kept)) ∧
    (∀ (caller : WideCaller) (code : BitVec 2) (path : List Point), s.hostStep = .inside (.settleLoop caller code) path → step s = .next t →
      t.result = caller.succeeding ∧ (t.periph i).clkcr.extractLsb' 14 2 = code)

/-! ### The block transfer engine (44) -/

/-- 44 R302: the operand checks of both transfer calls in their order, before any register access, while no interrupt is taken. The in-progress flags are
read in steps of their own (20 R89): an interrupt that ends the transfer in progress (60 R362, R370) before these steps lets the call pass to the next check,
one after them comes too late. That they are two steps, and their place, is the model's choice (notes/assumptions/25.md). -/
def Obligations.TransferOperandChecks : Prop :=
  ∀ (s : State) (d : Dir) (address buffer blockSize numBlocks : Word),
    (NoInterrupt s → s.xfer.rxCplt = true ∨ s.xfer.txCplt = true →
      exec (transferCall d address buffer blockSize numBlocks) s = .refused .transferOutstanding) ∧
    (∀ (i : Sdmmc) (going : Dir) (n : Nat), blockSize.toNat ≠ 512 → s.session.bound = some i → s.xfer.operation = some ⟨.single, going⟩ →
      s.xfer.rxCplt = decide (going = .read) → s.xfer.txCplt = decide (going = .write) → (s.periph i).sta.getLsbD 8 = true →
      (s.periph i).mask.getLsbD 8 = true → (s.periph i).routed = true → s.irqStep = .idle → s.sched = quiet n ++ [[.irq i]] →
      (n = 0 → exec (transferCall d address buffer blockSize numBlocks) s = .refused .blockSizeNot512) ∧
      (2 ≤ n → exec (transferCall d address buffer blockSize numBlocks) s = .refused .transferOutstanding)) ∧
    (NoInterrupt s → s.xfer.rxCplt = false → s.xfer.txCplt = false →
      (blockSize.toNat ≠ 512 → exec (transferCall d address buffer blockSize numBlocks) s = .refused .blockSizeNot512) ∧
      (blockSize = 512 →
        (numBlocks.toNat = 0 ∨ 65535 < numBlocks.toNat → exec (transferCall d address buffer blockSize numBlocks) s = .refused .badBlockCount) ∧
        (1 ≤ numBlocks.toNat → numBlocks.toNat ≤ 65535 → ∀ t, s.session.cardType = some t →
          (t ≠ .highCapacity → 2 ^ 23 ≤ address.toNat →
            exec (transferCall d address buffer blockSize numBlocks) s = .refused .addressOverflow) ∧
          (t = .highCapacity ∨ address.toNat < 2 ^ 23 →
            (buffer.toNat % 4 ≠ 0 → exec (transferCall d address buffer blockSize numBlocks) s = .fault .bufferMisaligned) ∧
            (buffer.toNat % 4 = 0 → (∃ k < 512 * numBlocks.toNat, inDmaRegion s.cfg (buffer.toNat + k) = false) →
              exec (transferCall d address buffer blockSize numBlocks) s = .fault .bufferNotDmaCapable)))))

/-- A transfer that the card accepts at the first attempt (44 R303 to R307, R310, R311): the registers as armed, the transfer command with its byte
or block address sent with `CMDTRANS` set, the Transfer State in progress, the buffer in use, with cache hooks the buffer cleaned or invalidated; nothing
else changes. The marks of the buffers and their bytes are the model's (notes/assumptions/23.md). -/
def Obligations.TransferArms : Prop :=
  ∀ (s : State) (i : Sdmmc) (d : Dir) (t0 : CardType) (address buffer numBlocks status : Word) (rest : List (List Move)),
    s.session.bound = some i → TransferAdmitted s t0 address buffer numBlocks → decodeCardStatus status = .ok →
    let c : Word := match d with
      | .read => if numBlocks.toNat > 1 then 18 else 17
      | .write => if numBlocks.toNat > 1 then 25 else 24
    s.sched = admissionScript ++ shortScript i 16 status ++ armScript s.cfg.cacheHooks ++ shortScript i c status ++ rest →
    ∃ t, exec (transferCall d address buffer 512 numBlocks) s = .next t ∧ t.result = .err .ok ∧ t.hostStep = .idle ∧ t.sched = rest ∧
      Armed s i d buffer numBlocks (t.periph i) ∧ (t.periph i).cmdr &&& 0x137F = 0x140 ||| c ∧
      (t.periph i).argr = (if t0 = .highCapacity then address else address * 512) ∧
      t.xfer = { operation := some ⟨if numBlocks.toNat > 1 then .multiple else .single, d⟩, complete := false, error := .ok,
                 rxCplt := decide (d = .read), txCplt := decide (d = .write) } ∧
      t.session = s.session ∧ t.mem = s.mem ∧ t.windows = ⟨d, buffer.toNat, 512 * numBlocks.toNat⟩ :: s.windows ∧
      t.irqStep = s.irqStep ∧ t.sent = s.sent ∧ t.structs = s.structs ∧ t.ssr = s.ssr ∧ t.draws = s.draws ∧ t.program = s.program ∧
      (∀ j, j ≠ i → t.periph j = s.periph j) ∧
      (d = .read → if s.cfg.cacheHooks then
          ∀ a, (∃ w ∈ t.stale, w.base ≤ a ∧ a < w.base + w.len) ↔
            (∃ w ∈ s.stale, w.base ≤ a ∧ a < w.base + w.len) ∧ ¬(buffer.toNat ≤ a ∧ a < buffer.toNat + 512 * numBlocks.toNat)
        else t.stale = ⟨d, buffer.toNat, 512 * numBlocks.toNat⟩ :: s.stale) ∧
      (d = .read → t.tainted = s.tainted) ∧ (d = .write → t.stale = s.stale) ∧ t.appCmd = false ∧ t.hostByte = s.hostByte ∧
      (d = .write → s.cfg.cacheHooks = true →
        ∀ a, a ∈ t.tainted ↔ a ∈ s.tainted ∧ ¬(buffer.toNat ≤ a ∧ a < buffer.toNat + 512 * numBlocks.toNat)) ∧
      (d = .write → s.cfg.cacheHooks = false → t.tainted = s.tainted) ∧ t.cfg = s.cfg ∧ t.pin = s.pin ∧
      t.delayRuns = s.delayRuns

/-- 44 R308, R309: the transfer command is sent again after each failed attempt, with a CMD55 probe between, ten attempts in all; ten failures end the
call with the last result, the in-progress flag cleared, `TransferError` still `Ok` and the registers as armed. -/
def Obligations.TransferRetries : Prop :=
  ∀ (s : State) (i : Sdmmc) (d : Dir) (t0 : CardType) (rca : BitVec 16) (address buffer numBlocks status : Word) (n : Nat)
    (rest : List (List Move)), s.session.bound = some i → s.session.rca = some rca → TransferAdmitted s t0 address buffer numBlocks →
    decodeCardStatus status = .ok →
    let c : Word := match d with
      | .read => if numBlocks.toNat > 1 then 18 else 17
      | .write => if numBlocks.toNat > 1 then 25 else 24
    (n ≤ 9 → s.sched = admissionScript ++ shortScript i 16 status ++ armScript s.cfg.cacheHooks ++ (List.replicate n (failedAttempt i status)).flatten
        ++ shortScript i c status ++ rest →
      ∃ t, exec (transferCall d address buffer 512 numBlocks) s = .next t ∧ t.result = .err .ok ∧ t.sched = rest ∧
        inProgress d t.xfer = true ∧ Armed s i d buffer numBlocks (t.periph i)) ∧
    (s.sched = admissionScript ++ shortScript i 16 status ++ armScript s.cfg.cacheHooks ++ (List.replicate 9 (failedAttempt i status)).flatten
        ++ quiet 4 ++ [shortAnswer i 0 0 ccrcfail] ++ quiet 3 ++ rest →
      ∃ t, exec (transferCall d address buffer 512 numBlocks) s = .next t ∧ t.result = .err .crcFail ∧ t.hostStep = .idle ∧ t.sched = rest ∧
        t.xfer.rxCplt = false ∧ t.xfer.txCplt = false ∧ t.xfer.error = .ok ∧ Armed s i d buffer numBlocks (t.periph i))

/-- A card that answers the block-length command and then falls silent (44 R303, R309, 40 R166): all attempts time out, the call returns `Timeout` with the
in-progress flag cleared and the registers as armed. A CMD16 failure returns before any Transfer State is written. -/
def Obligations.SilentTransferGivesUp : Prop :=
  ∀ (s : State) (i : Sdmmc) (d : Dir) (t0 : CardType) (rca : BitVec 16) (address buffer numBlocks status : Word),
    s.session.bound = some i → s.session.rca = some rca → TransferAdmitted s t0 address buffer numBlocks →
    (decodeCardStatus status = .ok → s.sched = admissionScript ++ shortScript i 16 status ++ armScript s.cfg.cacheHooks →
      ∃ t, exec (transferCall d address buffer 512 numBlocks) s = .next t ∧ t.result = .err .timeout ∧ t.hostStep = .idle ∧
        t.xfer.rxCplt = false ∧ t.xfer.txCplt = false ∧ t.xfer.error = .ok ∧ t.session = s.session ∧
        Armed s i d buffer numBlocks (t.periph i)) ∧
    (s.sched = [] → exec (transferCall d address buffer 512 numBlocks) s =
      .next (((s.setPeriph i ((s.periph i).commanded s.clearMask 16 512 1)).setAppCmd false).returned [] (.err .timeout)))

/-- 44 R316, R317: a check call without a recorded error is `Ok` once the in-progress flag is clear and `Busy` while it is set, in both forms, and
accesses no register; with `Nested` it is `Ok` on a clear flag whatever is recorded. `Ok` hands the buffers of that direction back, and what the card has received from them no longer races with the host (20 R91). The buffers' marks
are the model's (notes/assumptions/23.md). -/
def Obligations.CheckCallPolls : Prop :=
  ∀ (s : State) (d : Dir), s.sched = [] →
    (inProgress d s.xfer = false → s.xfer.error = .ok ∨ s.cfg.checkForm = .nested →
      ∃ t, exec (checkCall d) s = .next t ∧ t = { s with windows := t.windows, sent := t.sent }.setReturn .idle (.err .ok) ∧
        t.sent = (match d with | .read => s.sent | .write => s.sent.map (fun x => ⟨x.byte, none⟩)) ∧ ∀ w, w ∈ t.windows ↔ w ∈ s.windows ∧ w.dir ≠ d) ∧
    (inProgress d s.xfer = true → s.xfer.error = .ok → exec (checkCall d) s = .next (s.setReturn .idle (.err .busy)))

/-- 44 R316, R318: a check call with a recorded error runs Abort and returns that error; where Abort succeeds (the card idle, or stopped by CMD12) the
in-progress flag is cleared and the buffers of that direction handed back, where it fails the flag stays and so do they (their marks are the model's,
notes/assumptions/23.md); `TransferError` is not rewritten. -/
def Obligations.CheckCallSurfacesErrors : Prop :=
  ∀ (s : State) (i : Sdmmc) (d : Dir) (rca : BitVec 16) (status stopped : Word) (rest : List (List Move)), s.session.bound = some i →
    s.session.rca = some rca → s.xfer.error ≠ .ok → s.cfg.checkForm = .errorFirst ∨ inProgress d s.xfer = true →
    decodeCardStatus status = .ok →
    let lead := quiet (match s.cfg.checkForm with | .nested => 3 | .errorFirst => 2) ++ quiet 4 ++ shortScript i 13 status ++ quiet 1
    let busy := 5 ≤ (status.toNat / 512) % 16 ∧ (status.toNat / 512) % 16 ≤ 7
    (s.sched = (if busy then lead ++ shortScript i 12 stopped ++ quiet 1 else lead ++ quiet 1) ++ rest → decodeCardStatus stopped = .ok →
      ∃ t, exec (checkCall d) s = .next t ∧ t.result = .err s.xfer.error ∧ t.hostStep = .idle ∧ t.sched = rest ∧
        t.xfer = (match d with | .read => { s.xfer with rxCplt := false } | .write => { s.xfer with txCplt := false }) ∧
        t.session = s.session ∧ (t.periph i).mask = (s.periph i).mask &&& ~~~0x0800013A ∧ (t.periph i).idmactrl = 0 ∧
        t.sent = (match d with | .read => s.sent | .write => s.sent.map (fun x => ⟨x.byte, none⟩)) ∧
        (∀ w, w ∈ t.windows ↔ w ∈ s.windows ∧ w.dir ≠ d)) ∧
    (s.sched = lead → busy →
      ∃ t, exec (checkCall d) s = .next t ∧ t.result = .err s.xfer.error ∧ t.hostStep = .idle ∧ t.xfer = s.xfer ∧ t.windows = s.windows ∧ t.sent = s.sent)

/-- 44 R325: `SD_GetStatus` maps `CURRENT_STATE` of the CMD13 response to `Ok` (4), `Busy` (5, 6, 7) or `Error`, and returns a failure of CMD13 as it is;
it writes only the registers of a command. -/
def Obligations.GetStatusMapsTheState : Prop :=
  ∀ (s : State) (i : Sdmmc) (rca : BitVec 16) (status : Word) (rest : List (List Move)), s.session.bound = some i → s.session.rca = some rca →
    (decodeCardStatus status = .ok → s.sched = shortScript i 13 status ++ quiet 1 ++ rest →
      let st := (status.toNat / 512) % 16
      exec .sdGetStatus s = .next (((s.setPeriph i ((s.periph i).answeredShort s.clearMask 13 (rca ++ 0#16) 1 13 status)).setAppCmd
        false).returned rest (.err (if st = 4 then .ok else if st = 5 ∨ st = 6 ∨ st = 7 then .busy else .error)))) ∧
    (decodeCardStatus status ≠ .ok → s.sched = shortScript i 13 status ++ rest →
      ∃ t, exec .sdGetStatus s = .next t ∧ ControllerOnly i rest (.err (decodeCardStatus status)) s t ∧ t.session = s.session) ∧
    (s.sched = [] → ∃ t, exec .sdGetStatus s = .next t ∧ ControllerOnly i [] (.err .timeout) s t ∧ t.session = s.session)

/-- `sendSDStatus` and `SD_GetCardStatus` (44 R330, R331): the sixteen FIFO words are the 64 status bytes, the first byte the low byte of the first
word; the call parses them into `S.SDStatus` and the caller's structure. The bytes kept and the structure by its address are the model's
(notes/assumptions/14.md, 20.md). -/
def Obligations.CardStatusReads : Prop :=
  ∀ (s : State) (i : Sdmmc) (rca : BitVec 16) (status out : Word) (words : List Word) (rest : List (List Move)), s.session.bound = some i →
    s.session.rca = some rca → (s.periph i).readyToPoll → decodeCardStatus status = .ok → words.length = 16 →
    s.sched = ssrScript i status words ++ rest →
    (∃ t, exec .sendSDStatus s = .next t ∧ ControllerOnly i rest (.err .ok) { s with ssr := t.ssr } t ∧ t.session = s.session ∧
      t.ssr.length = 64 ∧ (∀ w < 16, ∀ j < 4, t.ssr.getD (4 * w + j) 0 = (words.getD w 0).extractLsb' (8 * j) 8) ∧
      (t.periph i).dlen = 64 ∧ (t.periph i).dctrl = 0x62 ∧ (t.periph i).dtimer = s.cfg.dtimer ∧ (t.periph i).sta &&& staticFlags = 0) ∧
    (∃ t x, exec (.sdGetCardStatus out) s = .next t ∧ ControllerOnly i rest (.err .ok) { s with ssr := t.ssr, structs := t.structs } t ∧
      t.session = { s.session with sdStatus := some x } ∧ x.agrees t.ssr ∧ t.ssr = words.flatMap wordBytes ∧
      (out, x) ∈ t.structs ∧ (∀ a y, a ≠ out → ((a, y) ∈ t.structs ↔ (a, y) ∈ s.structs)) ∧ (∀ y, (out, y) ∈ t.structs → y = x))

/-! ### Abort, the handler and the Transfer State (60, 10 section 2) -/

/-- 60 R366, R367: Abort disables the transfer interrupt sources and the DMA and clears the static flags; only a card status poll that says `Busy` is
followed by CMD12, whose result is returned; any other poll result, a failed poll too, gives `Ok`. The Transfer State and the session are unchanged. -/
def Obligations.AbortStopsTheTransfer : Prop :=
  ∀ (s : State) (i : Sdmmc) (rca : BitVec 16) (status stopped : Word) (rest : List (List Move)), s.session.bound = some i →
    s.session.rca = some rca →
    let busy := decodeCardStatus status = .ok ∧ 5 ≤ (status.toNat / 512) % 16 ∧ (status.toNat / 512) % 16 ≤ 7
    let quietAfter := fun (r : List (List Move)) (e : Err) => ∃ t, exec .sdAbort s = .next t ∧ ControllerOnly i r (.err e) s t ∧
      t.session = s.session ∧ (t.periph i).mask = (s.periph i).mask &&& ~~~0x0800013A ∧ (t.periph i).idmactrl = 0 ∧
      (t.periph i).sta &&& 0x1FE00FFF = 0 ∧ (t.periph i).dctrl = (s.periph i).dctrl ∧ (t.periph i).dlen = (s.periph i).dlen ∧
      (t.periph i).cmdr.getLsbD 6 = (s.periph i).cmdr.getLsbD 6
    (s.sched = quiet 4 ++ shortScript i 13 status ++ quiet 1 ++ rest → decodeCardStatus status = .ok → ¬busy → quietAfter rest .ok) ∧
    (s.sched = quiet 4 ++ shortScript i 13 status ++ quiet 1 ++ shortScript i 12 stopped ++ rest → busy →
      quietAfter rest (decodeCardStatus stopped)) ∧
    (s.sched = quiet 4 ++ shortScript i 13 status ++ rest → decodeCardStatus status ≠ .ok → quietAfter rest .ok) ∧
    (s.sched = [] → quietAfter [] .ok)

/-- 10 R47, 60 R368: between interrupts, `HOST` writes the Transfer State only in the arming calls and, in the check calls, only the in-progress flag of
their direction, from 1 to 0; every other instruction leaves it, whatever `ENV` does. -/
def Obligations.TransferStateOwnership : Prop :=
  ∀ (s t : State) (x : Instr), NoInterrupt s → exec x s = .next t →
    ((∀ d a b z n, x ≠ transferCall d a b z n) → (∀ d, x ≠ checkCall d) → (∀ i, x ≠ irqEntry i) → t.xfer = s.xfer) ∧
    (∀ d, x = checkCall d → t.xfer = s.xfer ∨
      t.xfer = (match d with | .read => { s.xfer with rxCplt := false } | .write => { s.xfer with txCplt := false }))

/-- 10 R42: only an arming call writes `S.Operation`, whatever `ENV` and `IRQ` do; an interrupt entry never does. -/
def Obligations.OperationWrittenOnlyByArming : Prop :=
  ∀ (s t : State) (x : Instr), (∀ d a b z n, x ≠ transferCall d a b z n) → exec x s = .next t → t.xfer.operation = s.xfer.operation

/-- Each session field has its writers and no others, whatever `ENV` and `IRQ` do (10 R31, R34, R38, R62): `CardType` and `CapArg` `powerOn`, `CID` and
`CSD` `initializeCard`, `RCA` a type 6 response, `SCR` `findSCR`, `SDStatus` `SD_GetCardStatus`, `CardInfo` the decoder, `Instance` `SD_Initialize_LL`,
`Powered` `powerOn` and `SD_Initialize_LL`; an interrupt entry writes none. Neither `SD_Init` nor `SD_Initialize_LL` returns a field to unwritten, where it
goes on from a wait either (70 R403). -/
def Obligations.SessionFieldWriters : Prop :=
  (∀ s t : State, s.hostStep ≠ .idle → s.hostStep.sound = true → step s = .next t → s.session.keepsWritten t.session) ∧
  ∀ (s t : State) (x : Instr), exec x s = .next t →
    ((∃ d, x = .sdInit d) ∨ (∃ sel, x = .sdInitializeLL sel) → s.session.keepsWritten t.session) ∧
    (x ≠ .powerOn → (∀ d, x ≠ .sdInit d) → t.session.cardType = s.session.cardType ∧ t.session.capArg = s.session.capArg) ∧
    (x ≠ .initializeCard → (∀ d, x ≠ .sdInit d) → t.session.cid = s.session.cid ∧ t.session.csd = s.session.csd) ∧
    (x ≠ .findSCR → (∀ m, x ≠ .wideBusOperationConfig m) → (∀ d, x ≠ .sdInit d) → t.session.scr = s.session.scr) ∧
    ((∀ out, x ≠ .sdGetCardStatus out) → t.session.sdStatus = s.session.sdStatus) ∧
    (x ≠ .sdGetCardInfo → x ≠ .decodeCSD → x ≠ .decodeCID → (∀ d, x ≠ .sdInit d) → t.session.cardInfo = s.session.cardInfo) ∧
    ((∀ sel, x ≠ .sdInitializeLL sel) → t.session.bound = s.session.bound) ∧
    (Instr.mayLatchRca x = false → t.session.rca = s.session.rca) ∧
    (x ≠ .powerOn → (∀ d, x ≠ .sdInit d) → (∀ sel, x ≠ .sdInitializeLL sel) → t.session.powered = s.session.powered) ∧
    ((∃ i, x = irqEntry i) → t.session = s.session)

/-- 60 R362: an entry of the handler that sees `DATAEND`: `CMDTRANS` and the DMA off, the in-progress flag of `S.Operation`'s direction cleared, the transfer
complete with `Ok`; a multi-block operation sends CMD12 first, whose result (an answer or silence) changes none of this; an unwritten `S.Operation` is a
fault. -/
def Obligations.HandlerEndsTheTransfer : Prop :=
  ∀ (s : State) (i : Sdmmc) (op : Operation) (status : Word) (rest : List (List Move)), s.session.bound = some i →
    (s.periph i).sta.getLsbD 8 = true →
    (s.xfer.operation = some op →
      s.sched = [] ∨ (op.count = .single ∧ s.sched = quiet 12 ++ rest) ∨
        (op.count = .multiple ∧ s.sched = quiet 7 ++ shortScript i 12 status ++ quiet 5 ++ rest) →
      ∃ t, exec (irqEntry i) s = .next t ∧
        t.xfer = { s.xfer with
          complete := true, error := .ok
          rxCplt := (if op.dir = .read then false else s.xfer.rxCplt), txCplt := (if op.dir = .write then false else s.xfer.txCplt) } ∧
        t.session = s.session ∧ t.mem = s.mem ∧ t.irqStep = .idle ∧ t.hostStep = s.hostStep ∧ t.result = s.result ∧
        (∀ j, j ≠ i → t.periph j = s.periph j) ∧
        (t.periph i).mask = (s.periph i).mask &&& ~~~0x0800013A ∧ (t.periph i).idmactrl = 0 ∧ (t.periph i).cmdr.getLsbD 6 = false ∧
        (t.periph i).sta &&& 0x1FE00FFF = 0 ∧ (op.count = .single → (t.periph i).argr = (s.periph i).argr) ∧
        (op.count = .multiple → (t.periph i).argr = 0 ∧ (t.periph i).cmdr.extractLsb' 0 6 = 12)) ∧
    (s.xfer.operation = none → s.sched = [] → exec (irqEntry i) s = .fault .unwrittenSession)

/-- 60 R360, R363 to R365: an entry of the handler that sees no `DATAEND`: the DMA error switches the DMA off and is recorded, else CRC failure, timeout,
overrun, underrun in that order; a spurious entry records nothing. The in-progress flags, `TransferComplete` and `CMDTRANS` stay. -/
def Obligations.HandlerRecordsErrors : Prop :=
  ∀ (s : State) (i : Sdmmc), s.session.bound = some i → s.sched = [] → (s.periph i).sta.getLsbD 8 = false →
    let p := s.periph i
    let e : Err := if p.sta.getLsbD 27 then .idmaError else if p.sta.getLsbD 1 then .dataCrcFail else if p.sta.getLsbD 3 then .dataTimeout
      else if p.sta.getLsbD 5 then .rxOverrun else if p.sta.getLsbD 4 then .txUnderrun else s.xfer.error
    ∃ t, exec (irqEntry i) s = .next t ∧ t.xfer = { s.xfer with error := e } ∧
      t = ((s.setPeriph i (t.periph i)).setXfer t.xfer).setIrqStep .idle ∧
      t.periph i = { p with
        mask := p.mask &&& ~~~0x0800013A, icr := 0x1FE00FFF, sta := (t.periph i).sta, idmactrl := if p.sta.getLsbD 27 then 0 else p.idmactrl } ∧
      (t.periph i).sta &&& 0x1FE00FFF = 0

/-- 60 R356, R361, R365: whatever `ENV` does between the handler's steps, it ends with every transfer source of `MASK` disabled and every static flag clear,
`IRQ` idle again, and the session as it was; the entry of a controller that is not bound is refused. -/
def Obligations.HandlerDisablesItsSources : Prop :=
  (∀ (s t : State) (i : Sdmmc), exec (irqEntry i) s = .next t →
    s.session.bound = some i ∧ t.session = s.session ∧ (t.periph i).mask &&& 0x0800013A = 0 ∧ (t.periph i).sta &&& 0x1FE00FFF = 0 ∧
      t.irqStep = .idle) ∧
  (∀ (s : State) (i : Sdmmc), s.session.bound ≠ some i → exec (irqEntry i) s = .refused .badCall)
end

