-- ==== Sys2Proof/Laws/State.lean ====
section
/-! SUPPORT. Laws/State.lean: each field after each named update of State, so that no proof unfolds a record update. -/

namespace Sys2Proof.Machine

@[simp] theorem State.setSession_cfg (s : State) (x : Session) : (s.setSession x).cfg = s.cfg := rfl
@[simp] theorem State.setSession_session (s : State) (x : Session) : (s.setSession x).session = x := rfl
@[simp] theorem State.setSession_xfer (s : State) (x : Session) : (s.setSession x).xfer = s.xfer := rfl
@[simp] theorem State.setSession_hostStep (s : State) (x : Session) : (s.setSession x).hostStep = s.hostStep := rfl
@[simp] theorem State.setSession_irqStep (s : State) (x : Session) : (s.setSession x).irqStep = s.irqStep := rfl
@[simp] theorem State.setSession_sdmmc1 (s : State) (x : Session) : (s.setSession x).sdmmc1 = s.sdmmc1 := rfl
@[simp] theorem State.setSession_sdmmc2 (s : State) (x : Session) : (s.setSession x).sdmmc2 = s.sdmmc2 := rfl
@[simp] theorem State.setSession_mem (s : State) (x : Session) : (s.setSession x).mem = s.mem := rfl
@[simp] theorem State.setSession_pin (s : State) (x : Session) : (s.setSession x).pin = s.pin := rfl
@[simp] theorem State.setSession_delayRuns (s : State) (x : Session) : (s.setSession x).delayRuns = s.delayRuns := rfl
@[simp] theorem State.setSession_sent (s : State) (x : Session) : (s.setSession x).sent = s.sent := rfl
@[simp] theorem State.setSession_structs (s : State) (x : Session) : (s.setSession x).structs = s.structs := rfl
@[simp] theorem State.setSession_result (s : State) (x : Session) : (s.setSession x).result = s.result := rfl
@[simp] theorem State.setSession_ssr (s : State) (x : Session) : (s.setSession x).ssr = s.ssr := rfl
@[simp] theorem State.setSession_appCmd (s : State) (x : Session) : (s.setSession x).appCmd = s.appCmd := rfl
@[simp] theorem State.setSession_hostByte (s : State) (x : Session) : (s.setSession x).hostByte = s.hostByte := rfl
@[simp] theorem State.setSession_windows (s : State) (x : Session) : (s.setSession x).windows = s.windows := rfl
@[simp] theorem State.setSession_tainted (s : State) (x : Session) : (s.setSession x).tainted = s.tainted := rfl
@[simp] theorem State.setSession_stale (s : State) (x : Session) : (s.setSession x).stale = s.stale := rfl
@[simp] theorem State.setSession_draws (s : State) (x : Session) : (s.setSession x).draws = s.draws := rfl
@[simp] theorem State.setSession_sched (s : State) (x : Session) : (s.setSession x).sched = s.sched := rfl
@[simp] theorem State.setSession_program (s : State) (x : Session) : (s.setSession x).program = s.program := rfl
@[simp] theorem State.setSession_periph (s : State) (x : Session) (i : Sdmmc) : (s.setSession x).periph i = s.periph i := by cases i <;> rfl

@[simp] theorem State.setXfer_cfg (s : State) (x : Transfer) : (s.setXfer x).cfg = s.cfg := rfl
@[simp] theorem State.setXfer_session (s : State) (x : Transfer) : (s.setXfer x).session = s.session := rfl
@[simp] theorem State.setXfer_xfer (s : State) (x : Transfer) : (s.setXfer x).xfer = x := rfl
@[simp] theorem State.setXfer_hostStep (s : State) (x : Transfer) : (s.setXfer x).hostStep = s.hostStep := rfl
@[simp] theorem State.setXfer_irqStep (s : State) (x : Transfer) : (s.setXfer x).irqStep = s.irqStep := rfl
@[simp] theorem State.setXfer_sdmmc1 (s : State) (x : Transfer) : (s.setXfer x).sdmmc1 = s.sdmmc1 := rfl
@[simp] theorem State.setXfer_sdmmc2 (s : State) (x : Transfer) : (s.setXfer x).sdmmc2 = s.sdmmc2 := rfl
@[simp] theorem State.setXfer_mem (s : State) (x : Transfer) : (s.setXfer x).mem = s.mem := rfl
@[simp] theorem State.setXfer_pin (s : State) (x : Transfer) : (s.setXfer x).pin = s.pin := rfl
@[simp] theorem State.setXfer_delayRuns (s : State) (x : Transfer) : (s.setXfer x).delayRuns = s.delayRuns := rfl
@[simp] theorem State.setXfer_sent (s : State) (x : Transfer) : (s.setXfer x).sent = s.sent := rfl
@[simp] theorem State.setXfer_structs (s : State) (x : Transfer) : (s.setXfer x).structs = s.structs := rfl
@[simp] theorem State.setXfer_result (s : State) (x : Transfer) : (s.setXfer x).result = s.result := rfl
@[simp] theorem State.setXfer_ssr (s : State) (x : Transfer) : (s.setXfer x).ssr = s.ssr := rfl
@[simp] theorem State.setXfer_appCmd (s : State) (x : Transfer) : (s.setXfer x).appCmd = s.appCmd := rfl
@[simp] theorem State.setXfer_hostByte (s : State) (x : Transfer) : (s.setXfer x).hostByte = s.hostByte := rfl
@[simp] theorem State.setXfer_windows (s : State) (x : Transfer) : (s.setXfer x).windows = s.windows := rfl
@[simp] theorem State.setXfer_tainted (s : State) (x : Transfer) : (s.setXfer x).tainted = s.tainted := rfl
@[simp] theorem State.setXfer_stale (s : State) (x : Transfer) : (s.setXfer x).stale = s.stale := rfl
@[simp] theorem State.setXfer_draws (s : State) (x : Transfer) : (s.setXfer x).draws = s.draws := rfl
@[simp] theorem State.setXfer_sched (s : State) (x : Transfer) : (s.setXfer x).sched = s.sched := rfl
@[simp] theorem State.setXfer_program (s : State) (x : Transfer) : (s.setXfer x).program = s.program := rfl
@[simp] theorem State.setXfer_periph (s : State) (x : Transfer) (i : Sdmmc) : (s.setXfer x).periph i = s.periph i := by cases i <;> rfl

@[simp] theorem State.setIrqStep_cfg (s : State) (x : IrqStep) : (s.setIrqStep x).cfg = s.cfg := rfl
@[simp] theorem State.setIrqStep_session (s : State) (x : IrqStep) : (s.setIrqStep x).session = s.session := rfl
@[simp] theorem State.setIrqStep_xfer (s : State) (x : IrqStep) : (s.setIrqStep x).xfer = s.xfer := rfl
@[simp] theorem State.setIrqStep_hostStep (s : State) (x : IrqStep) : (s.setIrqStep x).hostStep = s.hostStep := rfl
@[simp] theorem State.setIrqStep_irqStep (s : State) (x : IrqStep) : (s.setIrqStep x).irqStep = x := rfl
@[simp] theorem State.setIrqStep_sdmmc1 (s : State) (x : IrqStep) : (s.setIrqStep x).sdmmc1 = s.sdmmc1 := rfl
@[simp] theorem State.setIrqStep_sdmmc2 (s : State) (x : IrqStep) : (s.setIrqStep x).sdmmc2 = s.sdmmc2 := rfl
@[simp] theorem State.setIrqStep_mem (s : State) (x : IrqStep) : (s.setIrqStep x).mem = s.mem := rfl
@[simp] theorem State.setIrqStep_pin (s : State) (x : IrqStep) : (s.setIrqStep x).pin = s.pin := rfl
@[simp] theorem State.setIrqStep_delayRuns (s : State) (x : IrqStep) : (s.setIrqStep x).delayRuns = s.delayRuns := rfl
@[simp] theorem State.setIrqStep_sent (s : State) (x : IrqStep) : (s.setIrqStep x).sent = s.sent := rfl
@[simp] theorem State.setIrqStep_structs (s : State) (x : IrqStep) : (s.setIrqStep x).structs = s.structs := rfl
@[simp] theorem State.setIrqStep_result (s : State) (x : IrqStep) : (s.setIrqStep x).result = s.result := rfl
@[simp] theorem State.setIrqStep_ssr (s : State) (x : IrqStep) : (s.setIrqStep x).ssr = s.ssr := rfl
@[simp] theorem State.setIrqStep_appCmd (s : State) (x : IrqStep) : (s.setIrqStep x).appCmd = s.appCmd := rfl
@[simp] theorem State.setIrqStep_hostByte (s : State) (x : IrqStep) : (s.setIrqStep x).hostByte = s.hostByte := rfl
@[simp] theorem State.setIrqStep_windows (s : State) (x : IrqStep) : (s.setIrqStep x).windows = s.windows := rfl
@[simp] theorem State.setIrqStep_tainted (s : State) (x : IrqStep) : (s.setIrqStep x).tainted = s.tainted := rfl
@[simp] theorem State.setIrqStep_stale (s : State) (x : IrqStep) : (s.setIrqStep x).stale = s.stale := rfl
@[simp] theorem State.setIrqStep_draws (s : State) (x : IrqStep) : (s.setIrqStep x).draws = s.draws := rfl
@[simp] theorem State.setIrqStep_sched (s : State) (x : IrqStep) : (s.setIrqStep x).sched = s.sched := rfl
@[simp] theorem State.setIrqStep_program (s : State) (x : IrqStep) : (s.setIrqStep x).program = s.program := rfl
@[simp] theorem State.setIrqStep_periph (s : State) (x : IrqStep) (i : Sdmmc) : (s.setIrqStep x).periph i = s.periph i := by cases i <;> rfl

@[simp] theorem State.setMem_cfg (s : State) (x : List Host.Cell) : (s.setMem x).cfg = s.cfg := rfl
@[simp] theorem State.setMem_session (s : State) (x : List Host.Cell) : (s.setMem x).session = s.session := rfl
@[simp] theorem State.setMem_xfer (s : State) (x : List Host.Cell) : (s.setMem x).xfer = s.xfer := rfl
@[simp] theorem State.setMem_hostStep (s : State) (x : List Host.Cell) : (s.setMem x).hostStep = s.hostStep := rfl
@[simp] theorem State.setMem_irqStep (s : State) (x : List Host.Cell) : (s.setMem x).irqStep = s.irqStep := rfl
@[simp] theorem State.setMem_sdmmc1 (s : State) (x : List Host.Cell) : (s.setMem x).sdmmc1 = s.sdmmc1 := rfl
@[simp] theorem State.setMem_sdmmc2 (s : State) (x : List Host.Cell) : (s.setMem x).sdmmc2 = s.sdmmc2 := rfl
@[simp] theorem State.setMem_mem (s : State) (x : List Host.Cell) : (s.setMem x).mem = x := rfl
@[simp] theorem State.setMem_pin (s : State) (x : List Host.Cell) : (s.setMem x).pin = s.pin := rfl
@[simp] theorem State.setMem_delayRuns (s : State) (x : List Host.Cell) : (s.setMem x).delayRuns = s.delayRuns := rfl
@[simp] theorem State.setMem_sent (s : State) (x : List Host.Cell) : (s.setMem x).sent = s.sent := rfl
@[simp] theorem State.setMem_structs (s : State) (x : List Host.Cell) : (s.setMem x).structs = s.structs := rfl
@[simp] theorem State.setMem_result (s : State) (x : List Host.Cell) : (s.setMem x).result = s.result := rfl
@[simp] theorem State.setMem_ssr (s : State) (x : List Host.Cell) : (s.setMem x).ssr = s.ssr := rfl
@[simp] theorem State.setMem_appCmd (s : State) (x : List Host.Cell) : (s.setMem x).appCmd = s.appCmd := rfl
@[simp] theorem State.setMem_hostByte (s : State) (x : List Host.Cell) : (s.setMem x).hostByte = s.hostByte := rfl
@[simp] theorem State.setMem_windows (s : State) (x : List Host.Cell) : (s.setMem x).windows = s.windows := rfl
@[simp] theorem State.setMem_tainted (s : State) (x : List Host.Cell) : (s.setMem x).tainted = s.tainted := rfl
@[simp] theorem State.setMem_stale (s : State) (x : List Host.Cell) : (s.setMem x).stale = s.stale := rfl
@[simp] theorem State.setMem_draws (s : State) (x : List Host.Cell) : (s.setMem x).draws = s.draws := rfl
@[simp] theorem State.setMem_sched (s : State) (x : List Host.Cell) : (s.setMem x).sched = s.sched := rfl
@[simp] theorem State.setMem_program (s : State) (x : List Host.Cell) : (s.setMem x).program = s.program := rfl
@[simp] theorem State.setMem_periph (s : State) (x : List Host.Cell) (i : Sdmmc) : (s.setMem x).periph i = s.periph i := by cases i <;> rfl

@[simp] theorem State.setSched_cfg (s : State) (x : List (List Move)) : (s.setSched x).cfg = s.cfg := rfl
@[simp] theorem State.setSched_session (s : State) (x : List (List Move)) : (s.setSched x).session = s.session := rfl
@[simp] theorem State.setSched_xfer (s : State) (x : List (List Move)) : (s.setSched x).xfer = s.xfer := rfl
@[simp] theorem State.setSched_hostStep (s : State) (x : List (List Move)) : (s.setSched x).hostStep = s.hostStep := rfl
@[simp] theorem State.setSched_irqStep (s : State) (x : List (List Move)) : (s.setSched x).irqStep = s.irqStep := rfl
@[simp] theorem State.setSched_sdmmc1 (s : State) (x : List (List Move)) : (s.setSched x).sdmmc1 = s.sdmmc1 := rfl
@[simp] theorem State.setSched_sdmmc2 (s : State) (x : List (List Move)) : (s.setSched x).sdmmc2 = s.sdmmc2 := rfl
@[simp] theorem State.setSched_mem (s : State) (x : List (List Move)) : (s.setSched x).mem = s.mem := rfl
@[simp] theorem State.setSched_pin (s : State) (x : List (List Move)) : (s.setSched x).pin = s.pin := rfl
@[simp] theorem State.setSched_delayRuns (s : State) (x : List (List Move)) : (s.setSched x).delayRuns = s.delayRuns := rfl
@[simp] theorem State.setSched_sent (s : State) (x : List (List Move)) : (s.setSched x).sent = s.sent := rfl
@[simp] theorem State.setSched_structs (s : State) (x : List (List Move)) : (s.setSched x).structs = s.structs := rfl
@[simp] theorem State.setSched_result (s : State) (x : List (List Move)) : (s.setSched x).result = s.result := rfl
@[simp] theorem State.setSched_ssr (s : State) (x : List (List Move)) : (s.setSched x).ssr = s.ssr := rfl
@[simp] theorem State.setSched_appCmd (s : State) (x : List (List Move)) : (s.setSched x).appCmd = s.appCmd := rfl
@[simp] theorem State.setSched_hostByte (s : State) (x : List (List Move)) : (s.setSched x).hostByte = s.hostByte := rfl
@[simp] theorem State.setSched_windows (s : State) (x : List (List Move)) : (s.setSched x).windows = s.windows := rfl
@[simp] theorem State.setSched_tainted (s : State) (x : List (List Move)) : (s.setSched x).tainted = s.tainted := rfl
@[simp] theorem State.setSched_stale (s : State) (x : List (List Move)) : (s.setSched x).stale = s.stale := rfl
@[simp] theorem State.setSched_draws (s : State) (x : List (List Move)) : (s.setSched x).draws = s.draws := rfl
@[simp] theorem State.setSched_sched (s : State) (x : List (List Move)) : (s.setSched x).sched = x := rfl
@[simp] theorem State.setSched_program (s : State) (x : List (List Move)) : (s.setSched x).program = s.program := rfl
@[simp] theorem State.setSched_periph (s : State) (x : List (List Move)) (i : Sdmmc) : (s.setSched x).periph i = s.periph i := by cases i <;> rfl

@[simp] theorem State.setReturn_cfg (s : State) (h : HostStep) (r : Result) : (s.setReturn h r).cfg = s.cfg := rfl
@[simp] theorem State.setReturn_session (s : State) (h : HostStep) (r : Result) : (s.setReturn h r).session = s.session := rfl
@[simp] theorem State.setReturn_xfer (s : State) (h : HostStep) (r : Result) : (s.setReturn h r).xfer = s.xfer := rfl
@[simp] theorem State.setReturn_hostStep (s : State) (h : HostStep) (r : Result) : (s.setReturn h r).hostStep = h := rfl
@[simp] theorem State.setReturn_irqStep (s : State) (h : HostStep) (r : Result) : (s.setReturn h r).irqStep = s.irqStep := rfl
@[simp] theorem State.setReturn_sdmmc1 (s : State) (h : HostStep) (r : Result) : (s.setReturn h r).sdmmc1 = s.sdmmc1 := rfl
@[simp] theorem State.setReturn_sdmmc2 (s : State) (h : HostStep) (r : Result) : (s.setReturn h r).sdmmc2 = s.sdmmc2 := rfl
@[simp] theorem State.setReturn_mem (s : State) (h : HostStep) (r : Result) : (s.setReturn h r).mem = s.mem := rfl
@[simp] theorem State.setReturn_pin (s : State) (h : HostStep) (r : Result) : (s.setReturn h r).pin = s.pin := rfl
@[simp] theorem State.setReturn_delayRuns (s : State) (h : HostStep) (r : Result) : (s.setReturn h r).delayRuns = s.delayRuns := rfl
@[simp] theorem State.setReturn_sent (s : State) (h : HostStep) (r : Result) : (s.setReturn h r).sent = s.sent := rfl
@[simp] theorem State.setReturn_structs (s : State) (h : HostStep) (r : Result) : (s.setReturn h r).structs = s.structs := rfl
@[simp] theorem State.setReturn_result (s : State) (h : HostStep) (r : Result) : (s.setReturn h r).result = r := rfl
@[simp] theorem State.setReturn_ssr (s : State) (h : HostStep) (r : Result) : (s.setReturn h r).ssr = s.ssr := rfl
@[simp] theorem State.setReturn_appCmd (s : State) (h : HostStep) (r : Result) : (s.setReturn h r).appCmd = s.appCmd := rfl
@[simp] theorem State.setReturn_hostByte (s : State) (h : HostStep) (r : Result) : (s.setReturn h r).hostByte = s.hostByte := rfl
@[simp] theorem State.setReturn_windows (s : State) (h : HostStep) (r : Result) : (s.setReturn h r).windows = s.windows := rfl
@[simp] theorem State.setReturn_tainted (s : State) (h : HostStep) (r : Result) : (s.setReturn h r).tainted = s.tainted := rfl
@[simp] theorem State.setReturn_stale (s : State) (h : HostStep) (r : Result) : (s.setReturn h r).stale = s.stale := rfl
@[simp] theorem State.setReturn_draws (s : State) (h : HostStep) (r : Result) : (s.setReturn h r).draws = s.draws := rfl
@[simp] theorem State.setReturn_sched (s : State) (h : HostStep) (r : Result) : (s.setReturn h r).sched = s.sched := rfl
@[simp] theorem State.setReturn_program (s : State) (h : HostStep) (r : Result) : (s.setReturn h r).program = s.program := rfl
@[simp] theorem State.setReturn_periph (s : State) (h : HostStep) (r : Result) (i : Sdmmc) : (s.setReturn h r).periph i = s.periph i := by cases i <;> rfl

@[simp] theorem State.setHostStep_cfg (s : State) (h : HostStep) : (s.setHostStep h).cfg = s.cfg := rfl
@[simp] theorem State.setHostStep_session (s : State) (h : HostStep) : (s.setHostStep h).session = s.session := rfl
@[simp] theorem State.setHostStep_xfer (s : State) (h : HostStep) : (s.setHostStep h).xfer = s.xfer := rfl
@[simp] theorem State.setHostStep_hostStep (s : State) (h : HostStep) : (s.setHostStep h).hostStep = h := rfl
@[simp] theorem State.setHostStep_irqStep (s : State) (h : HostStep) : (s.setHostStep h).irqStep = s.irqStep := rfl
@[simp] theorem State.setHostStep_sdmmc1 (s : State) (h : HostStep) : (s.setHostStep h).sdmmc1 = s.sdmmc1 := rfl
@[simp] theorem State.setHostStep_sdmmc2 (s : State) (h : HostStep) : (s.setHostStep h).sdmmc2 = s.sdmmc2 := rfl
@[simp] theorem State.setHostStep_mem (s : State) (h : HostStep) : (s.setHostStep h).mem = s.mem := rfl
@[simp] theorem State.setHostStep_pin (s : State) (h : HostStep) : (s.setHostStep h).pin = s.pin := rfl
@[simp] theorem State.setHostStep_delayRuns (s : State) (h : HostStep) : (s.setHostStep h).delayRuns = s.delayRuns := rfl
@[simp] theorem State.setHostStep_sent (s : State) (h : HostStep) : (s.setHostStep h).sent = s.sent := rfl
@[simp] theorem State.setHostStep_structs (s : State) (h : HostStep) : (s.setHostStep h).structs = s.structs := rfl
@[simp] theorem State.setHostStep_result (s : State) (h : HostStep) : (s.setHostStep h).result = s.result := rfl
@[simp] theorem State.setHostStep_ssr (s : State) (h : HostStep) : (s.setHostStep h).ssr = s.ssr := rfl
@[simp] theorem State.setHostStep_appCmd (s : State) (h : HostStep) : (s.setHostStep h).appCmd = s.appCmd := rfl
@[simp] theorem State.setHostStep_hostByte (s : State) (h : HostStep) : (s.setHostStep h).hostByte = s.hostByte := rfl
@[simp] theorem State.setHostStep_windows (s : State) (h : HostStep) : (s.setHostStep h).windows = s.windows := rfl
@[simp] theorem State.setHostStep_tainted (s : State) (h : HostStep) : (s.setHostStep h).tainted = s.tainted := rfl
@[simp] theorem State.setHostStep_stale (s : State) (h : HostStep) : (s.setHostStep h).stale = s.stale := rfl
@[simp] theorem State.setHostStep_draws (s : State) (h : HostStep) : (s.setHostStep h).draws = s.draws := rfl
@[simp] theorem State.setHostStep_sched (s : State) (h : HostStep) : (s.setHostStep h).sched = s.sched := rfl
@[simp] theorem State.setHostStep_program (s : State) (h : HostStep) : (s.setHostStep h).program = s.program := rfl
@[simp] theorem State.setHostStep_periph (s : State) (h : HostStep) (i : Sdmmc) : (s.setHostStep h).periph i = s.periph i := by cases i <;> rfl

@[simp] theorem State.setAppCmd_cfg (s : State) (x : Bool) : (s.setAppCmd x).cfg = s.cfg := rfl
@[simp] theorem State.setAppCmd_session (s : State) (x : Bool) : (s.setAppCmd x).session = s.session := rfl
@[simp] theorem State.setAppCmd_xfer (s : State) (x : Bool) : (s.setAppCmd x).xfer = s.xfer := rfl
@[simp] theorem State.setAppCmd_hostStep (s : State) (x : Bool) : (s.setAppCmd x).hostStep = s.hostStep := rfl
@[simp] theorem State.setAppCmd_irqStep (s : State) (x : Bool) : (s.setAppCmd x).irqStep = s.irqStep := rfl
@[simp] theorem State.setAppCmd_sdmmc1 (s : State) (x : Bool) : (s.setAppCmd x).sdmmc1 = s.sdmmc1 := rfl
@[simp] theorem State.setAppCmd_sdmmc2 (s : State) (x : Bool) : (s.setAppCmd x).sdmmc2 = s.sdmmc2 := rfl
@[simp] theorem State.setAppCmd_mem (s : State) (x : Bool) : (s.setAppCmd x).mem = s.mem := rfl
@[simp] theorem State.setAppCmd_pin (s : State) (x : Bool) : (s.setAppCmd x).pin = s.pin := rfl
@[simp] theorem State.setAppCmd_delayRuns (s : State) (x : Bool) : (s.setAppCmd x).delayRuns = s.delayRuns := rfl
@[simp] theorem State.setAppCmd_sent (s : State) (x : Bool) : (s.setAppCmd x).sent = s.sent := rfl
@[simp] theorem State.setAppCmd_structs (s : State) (x : Bool) : (s.setAppCmd x).structs = s.structs := rfl
@[simp] theorem State.setAppCmd_result (s : State) (x : Bool) : (s.setAppCmd x).result = s.result := rfl
@[simp] theorem State.setAppCmd_ssr (s : State) (x : Bool) : (s.setAppCmd x).ssr = s.ssr := rfl
@[simp] theorem State.setAppCmd_appCmd (s : State) (x : Bool) : (s.setAppCmd x).appCmd = x := rfl
@[simp] theorem State.setAppCmd_hostByte (s : State) (x : Bool) : (s.setAppCmd x).hostByte = s.hostByte := rfl
@[simp] theorem State.setAppCmd_windows (s : State) (x : Bool) : (s.setAppCmd x).windows = s.windows := rfl
@[simp] theorem State.setAppCmd_tainted (s : State) (x : Bool) : (s.setAppCmd x).tainted = s.tainted := rfl
@[simp] theorem State.setAppCmd_stale (s : State) (x : Bool) : (s.setAppCmd x).stale = s.stale := rfl
@[simp] theorem State.setAppCmd_draws (s : State) (x : Bool) : (s.setAppCmd x).draws = s.draws := rfl
@[simp] theorem State.setAppCmd_sched (s : State) (x : Bool) : (s.setAppCmd x).sched = s.sched := rfl
@[simp] theorem State.setAppCmd_program (s : State) (x : Bool) : (s.setAppCmd x).program = s.program := rfl
@[simp] theorem State.setAppCmd_periph (s : State) (x : Bool) (i : Sdmmc) : (s.setAppCmd x).periph i = s.periph i := by cases i <;> rfl

@[simp] theorem State.setDraws_cfg (s : State) (x : Nat) : (s.setDraws x).cfg = s.cfg := rfl
@[simp] theorem State.setDraws_session (s : State) (x : Nat) : (s.setDraws x).session = s.session := rfl
@[simp] theorem State.setDraws_xfer (s : State) (x : Nat) : (s.setDraws x).xfer = s.xfer := rfl
@[simp] theorem State.setDraws_hostStep (s : State) (x : Nat) : (s.setDraws x).hostStep = s.hostStep := rfl
@[simp] theorem State.setDraws_irqStep (s : State) (x : Nat) : (s.setDraws x).irqStep = s.irqStep := rfl
@[simp] theorem State.setDraws_sdmmc1 (s : State) (x : Nat) : (s.setDraws x).sdmmc1 = s.sdmmc1 := rfl
@[simp] theorem State.setDraws_sdmmc2 (s : State) (x : Nat) : (s.setDraws x).sdmmc2 = s.sdmmc2 := rfl
@[simp] theorem State.setDraws_mem (s : State) (x : Nat) : (s.setDraws x).mem = s.mem := rfl
@[simp] theorem State.setDraws_pin (s : State) (x : Nat) : (s.setDraws x).pin = s.pin := rfl
@[simp] theorem State.setDraws_delayRuns (s : State) (x : Nat) : (s.setDraws x).delayRuns = s.delayRuns := rfl
@[simp] theorem State.setDraws_sent (s : State) (x : Nat) : (s.setDraws x).sent = s.sent := rfl
@[simp] theorem State.setDraws_structs (s : State) (x : Nat) : (s.setDraws x).structs = s.structs := rfl
@[simp] theorem State.setDraws_result (s : State) (x : Nat) : (s.setDraws x).result = s.result := rfl
@[simp] theorem State.setDraws_ssr (s : State) (x : Nat) : (s.setDraws x).ssr = s.ssr := rfl
@[simp] theorem State.setDraws_appCmd (s : State) (x : Nat) : (s.setDraws x).appCmd = s.appCmd := rfl
@[simp] theorem State.setDraws_hostByte (s : State) (x : Nat) : (s.setDraws x).hostByte = s.hostByte := rfl
@[simp] theorem State.setDraws_windows (s : State) (x : Nat) : (s.setDraws x).windows = s.windows := rfl
@[simp] theorem State.setDraws_tainted (s : State) (x : Nat) : (s.setDraws x).tainted = s.tainted := rfl
@[simp] theorem State.setDraws_stale (s : State) (x : Nat) : (s.setDraws x).stale = s.stale := rfl
@[simp] theorem State.setDraws_draws (s : State) (x : Nat) : (s.setDraws x).draws = x := rfl
@[simp] theorem State.setDraws_sched (s : State) (x : Nat) : (s.setDraws x).sched = s.sched := rfl
@[simp] theorem State.setDraws_program (s : State) (x : Nat) : (s.setDraws x).program = s.program := rfl
@[simp] theorem State.setDraws_periph (s : State) (x : Nat) (i : Sdmmc) : (s.setDraws x).periph i = s.periph i := by cases i <;> rfl

@[simp] theorem State.setPeriph_cfg (s : State) (i : Sdmmc) (p : Periph) : (s.setPeriph i p).cfg = s.cfg := by cases i <;> rfl
@[simp] theorem State.setPeriph_session (s : State) (i : Sdmmc) (p : Periph) : (s.setPeriph i p).session = s.session := by cases i <;> rfl
@[simp] theorem State.setPeriph_xfer (s : State) (i : Sdmmc) (p : Periph) : (s.setPeriph i p).xfer = s.xfer := by cases i <;> rfl
@[simp] theorem State.setPeriph_hostStep (s : State) (i : Sdmmc) (p : Periph) : (s.setPeriph i p).hostStep = s.hostStep := by cases i <;> rfl
@[simp] theorem State.setPeriph_irqStep (s : State) (i : Sdmmc) (p : Periph) : (s.setPeriph i p).irqStep = s.irqStep := by cases i <;> rfl
@[simp] theorem State.setPeriph_mem (s : State) (i : Sdmmc) (p : Periph) : (s.setPeriph i p).mem = s.mem := by cases i <;> rfl
@[simp] theorem State.setPeriph_pin (s : State) (i : Sdmmc) (p : Periph) : (s.setPeriph i p).pin = s.pin := by cases i <;> rfl
@[simp] theorem State.setPeriph_delayRuns (s : State) (i : Sdmmc) (p : Periph) : (s.setPeriph i p).delayRuns = s.delayRuns := by cases i <;> rfl
@[simp] theorem State.setPeriph_sent (s : State) (i : Sdmmc) (p : Periph) : (s.setPeriph i p).sent = s.sent := by cases i <;> rfl
@[simp] theorem State.setPeriph_structs (s : State) (i : Sdmmc) (p : Periph) : (s.setPeriph i p).structs = s.structs := by cases i <;> rfl
@[simp] theorem State.setPeriph_result (s : State) (i : Sdmmc) (p : Periph) : (s.setPeriph i p).result = s.result := by cases i <;> rfl
@[simp] theorem State.setPeriph_ssr (s : State) (i : Sdmmc) (p : Periph) : (s.setPeriph i p).ssr = s.ssr := by cases i <;> rfl
@[simp] theorem State.setPeriph_appCmd (s : State) (i : Sdmmc) (p : Periph) : (s.setPeriph i p).appCmd = s.appCmd := by cases i <;> rfl
@[simp] theorem State.setPeriph_hostByte (s : State) (i : Sdmmc) (p : Periph) : (s.setPeriph i p).hostByte = s.hostByte := by cases i <;> rfl
@[simp] theorem State.setPeriph_windows (s : State) (i : Sdmmc) (p : Periph) : (s.setPeriph i p).windows = s.windows := by cases i <;> rfl
@[simp] theorem State.setPeriph_tainted (s : State) (i : Sdmmc) (p : Periph) : (s.setPeriph i p).tainted = s.tainted := by cases i <;> rfl
@[simp] theorem State.setPeriph_stale (s : State) (i : Sdmmc) (p : Periph) : (s.setPeriph i p).stale = s.stale := by cases i <;> rfl
@[simp] theorem State.setPeriph_draws (s : State) (i : Sdmmc) (p : Periph) : (s.setPeriph i p).draws = s.draws := by cases i <;> rfl
@[simp] theorem State.setPeriph_sched (s : State) (i : Sdmmc) (p : Periph) : (s.setPeriph i p).sched = s.sched := by cases i <;> rfl
@[simp] theorem State.setPeriph_program (s : State) (i : Sdmmc) (p : Periph) : (s.setPeriph i p).program = s.program := by cases i <;> rfl
@[simp] theorem State.setPeriph_sdmmc1 (s : State) (p : Periph) : (s.setPeriph .sdmmc1 p).sdmmc1 = p := rfl
@[simp] theorem State.setPeriph_sdmmc2 (s : State) (p : Periph) : (s.setPeriph .sdmmc2 p).sdmmc2 = p := rfl
@[simp] theorem State.setPeriph1_sdmmc2 (s : State) (p : Periph) : (s.setPeriph .sdmmc1 p).sdmmc2 = s.sdmmc2 := rfl
@[simp] theorem State.setPeriph2_sdmmc1 (s : State) (p : Periph) : (s.setPeriph .sdmmc2 p).sdmmc1 = s.sdmmc1 := rfl
@[simp] theorem State.periph_setPeriph (s : State) (i : Sdmmc) (p : Periph) : (s.setPeriph i p).periph i = p := by cases i <;> rfl
theorem State.periph_setPeriph_ne (s : State) {i j : Sdmmc} (p : Periph) (h : j ≠ i) : (s.setPeriph i p).periph j = s.periph j := by
  cases i <;> cases j <;> first | exact absurd rfl h | rfl
@[simp] theorem State.setPeriph_setPeriph (s : State) (i : Sdmmc) (p q : Periph) : (s.setPeriph i p).setPeriph i q = s.setPeriph i q := by
  cases i <;> rfl
@[simp] theorem State.setPeriph_periph (s : State) (i : Sdmmc) : s.setPeriph i (s.periph i) = s := by cases i <;> rfl
@[simp] theorem State.setSession_self (s : State) : s.setSession s.session = s := rfl
@[simp] theorem State.setSched_setSched (s : State) (x y : List (List Move)) : (s.setSched x).setSched y = s.setSched y := rfl
theorem State.setPeriph_setSched (s : State) (i : Sdmmc) (p : Periph) (x : List (List Move)) :
    (s.setPeriph i p).setSched x = (s.setSched x).setPeriph i p := by cases i <;> rfl

/-! ### The mark of an accepted CMD55 passes every other update -/

@[simp] theorem State.setAppCmd_setAppCmd (s : State) (x y : Bool) : (s.setAppCmd x).setAppCmd y = s.setAppCmd y := rfl
@[simp] theorem State.setAppCmd_setPeriph (s : State) (x : Bool) (i : Sdmmc) (p : Periph) :
    (s.setAppCmd x).setPeriph i p = (s.setPeriph i p).setAppCmd x := by cases i <;> rfl
@[simp] theorem State.setAppCmd_setSession (s : State) (x : Bool) (y : Session) : (s.setAppCmd x).setSession y = (s.setSession y).setAppCmd x := rfl
@[simp] theorem State.setAppCmd_setXfer (s : State) (x : Bool) (y : Transfer) : (s.setAppCmd x).setXfer y = (s.setXfer y).setAppCmd x := rfl
@[simp] theorem State.setAppCmd_setMem (s : State) (x : Bool) (y : List Host.Cell) : (s.setAppCmd x).setMem y = (s.setMem y).setAppCmd x := rfl
@[simp] theorem State.setAppCmd_setSched (s : State) (x : Bool) (y : List (List Move)) : (s.setAppCmd x).setSched y = (s.setSched y).setAppCmd x := rfl
@[simp] theorem State.setAppCmd_setDraws (s : State) (x : Bool) (y : Nat) : (s.setAppCmd x).setDraws y = (s.setDraws y).setAppCmd x := rfl

/-! ### The positions of the agents (10 R49): `moved` and `enter` change nothing else, and pass every other update -/

@[simp] theorem HostStep.goto_idle (p : List Point) : HostStep.goto p .idle = .idle := rfl
@[simp] theorem HostStep.goto_inside (p q : List Point) (x : Place) : HostStep.goto p (.inside x q) = .inside x p := rfl
@[simp] theorem HostStep.goto_goto (h : HostStep) (p q : List Point) : (h.goto p).goto q = h.goto q := by cases h <;> rfl
@[simp] theorem IrqStep.goto_idle (p : List Point) : IrqStep.goto p .idle = .idle := rfl
@[simp] theorem IrqStep.goto_inside (p q : List Point) : IrqStep.goto p (.inside q) = .inside p := rfl
@[simp] theorem IrqStep.goto_goto (h : IrqStep) (p q : List Point) : (h.goto p).goto q = h.goto q := by cases h <;> rfl

@[simp] theorem State.moved_cfg (s : State) (a : Agent) (n : List Point) : (s.moved a n).cfg = s.cfg := by cases a <;> rfl
@[simp] theorem State.moved_session (s : State) (a : Agent) (n : List Point) : (s.moved a n).session = s.session := by cases a <;> rfl
@[simp] theorem State.moved_xfer (s : State) (a : Agent) (n : List Point) : (s.moved a n).xfer = s.xfer := by cases a <;> rfl
@[simp] theorem State.moved_sdmmc1 (s : State) (a : Agent) (n : List Point) : (s.moved a n).sdmmc1 = s.sdmmc1 := by cases a <;> rfl
@[simp] theorem State.moved_sdmmc2 (s : State) (a : Agent) (n : List Point) : (s.moved a n).sdmmc2 = s.sdmmc2 := by cases a <;> rfl
@[simp] theorem State.moved_mem (s : State) (a : Agent) (n : List Point) : (s.moved a n).mem = s.mem := by cases a <;> rfl
@[simp] theorem State.moved_pin (s : State) (a : Agent) (n : List Point) : (s.moved a n).pin = s.pin := by cases a <;> rfl
@[simp] theorem State.moved_delayRuns (s : State) (a : Agent) (n : List Point) : (s.moved a n).delayRuns = s.delayRuns := by cases a <;> rfl
@[simp] theorem State.moved_sent (s : State) (a : Agent) (n : List Point) : (s.moved a n).sent = s.sent := by cases a <;> rfl
@[simp] theorem State.moved_structs (s : State) (a : Agent) (n : List Point) : (s.moved a n).structs = s.structs := by cases a <;> rfl
@[simp] theorem State.moved_result (s : State) (a : Agent) (n : List Point) : (s.moved a n).result = s.result := by cases a <;> rfl
@[simp] theorem State.moved_ssr (s : State) (a : Agent) (n : List Point) : (s.moved a n).ssr = s.ssr := by cases a <;> rfl
@[simp] theorem State.moved_appCmd (s : State) (a : Agent) (n : List Point) : (s.moved a n).appCmd = s.appCmd := by cases a <;> rfl
@[simp] theorem State.moved_hostByte (s : State) (a : Agent) (n : List Point) : (s.moved a n).hostByte = s.hostByte := by cases a <;> rfl
@[simp] theorem State.moved_windows (s : State) (a : Agent) (n : List Point) : (s.moved a n).windows = s.windows := by cases a <;> rfl
@[simp] theorem State.moved_tainted (s : State) (a : Agent) (n : List Point) : (s.moved a n).tainted = s.tainted := by cases a <;> rfl
@[simp] theorem State.moved_stale (s : State) (a : Agent) (n : List Point) : (s.moved a n).stale = s.stale := by cases a <;> rfl
@[simp] theorem State.moved_draws (s : State) (a : Agent) (n : List Point) : (s.moved a n).draws = s.draws := by cases a <;> rfl
@[simp] theorem State.moved_sched (s : State) (a : Agent) (n : List Point) : (s.moved a n).sched = s.sched := by cases a <;> rfl
@[simp] theorem State.moved_program (s : State) (a : Agent) (n : List Point) : (s.moved a n).program = s.program := by cases a <;> rfl
@[simp] theorem State.moved_periph (s : State) (a : Agent) (n : List Point) (i : Sdmmc) : (s.moved a n).periph i = s.periph i := by
  cases a <;> cases i <;> rfl
@[simp] theorem State.moved_host_hostStep (s : State) (n : List Point) : (s.moved .host n).hostStep = s.hostStep.goto n := rfl
@[simp] theorem State.moved_host_irqStep (s : State) (n : List Point) : (s.moved .host n).irqStep = s.irqStep := rfl
@[simp] theorem State.moved_irq_hostStep (s : State) (n : List Point) : (s.moved .irq n).hostStep = s.hostStep := rfl
@[simp] theorem State.moved_irq_irqStep (s : State) (n : List Point) : (s.moved .irq n).irqStep = s.irqStep.goto n := rfl
@[simp] theorem State.moved_moved (s : State) (a : Agent) (m n : List Point) : (s.moved a m).moved a n = s.moved a n := by
  cases a <;> simp [State.moved, State.setHostStep, State.setIrqStep]
@[simp] theorem State.moved_setPeriph (s : State) (a : Agent) (n : List Point) (i : Sdmmc) (p : Periph) :
    (s.moved a n).setPeriph i p = (s.setPeriph i p).moved a n := by cases a <;> cases i <;> rfl
@[simp] theorem State.moved_setSession (s : State) (a : Agent) (n : List Point) (x : Session) : (s.moved a n).setSession x = (s.setSession x).moved a n := by
  cases a <;> rfl
@[simp] theorem State.moved_setXfer (s : State) (a : Agent) (n : List Point) (x : Transfer) : (s.moved a n).setXfer x = (s.setXfer x).moved a n := by
  cases a <;> rfl
@[simp] theorem State.moved_setMem (s : State) (a : Agent) (n : List Point) (x : List Host.Cell) : (s.moved a n).setMem x = (s.setMem x).moved a n := by
  cases a <;> rfl
@[simp] theorem State.moved_setSched (s : State) (a : Agent) (n : List Point) (x : List (List Move)) : (s.moved a n).setSched x = (s.setSched x).moved a n := by
  cases a <;> rfl
@[simp] theorem State.moved_setAppCmd (s : State) (a : Agent) (n : List Point) (x : Bool) : (s.moved a n).setAppCmd x = (s.setAppCmd x).moved a n := by
  cases a <;> rfl
@[simp] theorem State.moved_setDraws (s : State) (a : Agent) (n : List Point) (x : Nat) : (s.moved a n).setDraws x = (s.setDraws x).moved a n := by
  cases a <;> rfl
@[simp] theorem State.moved_setReturn (s : State) (n : List Point) (h : HostStep) (r : Result) : (s.moved .host n).setReturn h r = s.setReturn h r := rfl
@[simp] theorem State.moved_setHostStep (s : State) (n : List Point) (h : HostStep) : (s.moved .host n).setHostStep h = s.setHostStep h := rfl

@[simp] theorem State.enter_cfg (s : State) (x : Instr) : (s.enter x).cfg = s.cfg := rfl
@[simp] theorem State.enter_session (s : State) (x : Instr) : (s.enter x).session = s.session := rfl
@[simp] theorem State.enter_xfer (s : State) (x : Instr) : (s.enter x).xfer = s.xfer := rfl
@[simp] theorem State.enter_hostStep (s : State) (x : Instr) : (s.enter x).hostStep = .inside (.call x) [] := rfl
@[simp] theorem State.enter_irqStep (s : State) (x : Instr) : (s.enter x).irqStep = s.irqStep := rfl
@[simp] theorem State.enter_sdmmc1 (s : State) (x : Instr) : (s.enter x).sdmmc1 = s.sdmmc1 := rfl
@[simp] theorem State.enter_sdmmc2 (s : State) (x : Instr) : (s.enter x).sdmmc2 = s.sdmmc2 := rfl
@[simp] theorem State.enter_mem (s : State) (x : Instr) : (s.enter x).mem = s.mem := rfl
@[simp] theorem State.enter_pin (s : State) (x : Instr) : (s.enter x).pin = s.pin := rfl
@[simp] theorem State.enter_delayRuns (s : State) (x : Instr) : (s.enter x).delayRuns = s.delayRuns := rfl
@[simp] theorem State.enter_sent (s : State) (x : Instr) : (s.enter x).sent = s.sent := rfl
@[simp] theorem State.enter_structs (s : State) (x : Instr) : (s.enter x).structs = s.structs := rfl
@[simp] theorem State.enter_result (s : State) (x : Instr) : (s.enter x).result = s.result := rfl
@[simp] theorem State.enter_ssr (s : State) (x : Instr) : (s.enter x).ssr = s.ssr := rfl
@[simp] theorem State.enter_appCmd (s : State) (x : Instr) : (s.enter x).appCmd = s.appCmd := rfl
@[simp] theorem State.enter_hostByte (s : State) (x : Instr) : (s.enter x).hostByte = s.hostByte := rfl
@[simp] theorem State.enter_windows (s : State) (x : Instr) : (s.enter x).windows = s.windows := rfl
@[simp] theorem State.enter_tainted (s : State) (x : Instr) : (s.enter x).tainted = s.tainted := rfl
@[simp] theorem State.enter_stale (s : State) (x : Instr) : (s.enter x).stale = s.stale := rfl
@[simp] theorem State.enter_draws (s : State) (x : Instr) : (s.enter x).draws = s.draws := rfl
@[simp] theorem State.enter_sched (s : State) (x : Instr) : (s.enter x).sched = s.sched := rfl
@[simp] theorem State.enter_program (s : State) (x : Instr) : (s.enter x).program = s.program := rfl
@[simp] theorem State.enter_periph (s : State) (x : Instr) (i : Sdmmc) : (s.enter x).periph i = s.periph i := by cases i <;> rfl
@[simp] theorem State.enter_setPeriph (s : State) (x : Instr) (i : Sdmmc) (p : Periph) : (s.enter x).setPeriph i p = (s.setPeriph i p).enter x := by
  cases i <;> rfl
@[simp] theorem State.enter_setSession (s : State) (x : Instr) (y : Session) : (s.enter x).setSession y = (s.setSession y).enter x := rfl
@[simp] theorem State.enter_setXfer (s : State) (x : Instr) (y : Transfer) : (s.enter x).setXfer y = (s.setXfer y).enter x := rfl
@[simp] theorem State.enter_setMem (s : State) (x : Instr) (y : List Host.Cell) : (s.enter x).setMem y = (s.setMem y).enter x := rfl
@[simp] theorem State.enter_setSched (s : State) (x : Instr) (y : List (List Move)) : (s.enter x).setSched y = (s.setSched y).enter x := rfl
@[simp] theorem State.enter_setAppCmd (s : State) (x : Instr) (y : Bool) : (s.enter x).setAppCmd y = (s.setAppCmd y).enter x := rfl
@[simp] theorem State.enter_setDraws (s : State) (x : Instr) (y : Nat) : (s.enter x).setDraws y = (s.setDraws y).enter x := rfl
@[simp] theorem State.enter_setReturn (s : State) (x : Instr) (h : HostStep) (r : Result) : (s.enter x).setReturn h r = s.setReturn h r := rfl
@[simp] theorem State.enter_setHostStep (s : State) (x : Instr) (h : HostStep) : (s.enter x).setHostStep h = s.setHostStep h := rfl
@[simp] theorem State.enter_moved_setReturn (s : State) (x : Instr) (n : List Point) (h : HostStep) (r : Result) :
    ((s.enter x).moved .host n).setReturn h r = s.setReturn h r := rfl

/-! ### The captured words (10 R36, R40) -/

@[simp] theorem RegCells.value_written (x : Reg128) : (RegCells.written x).value = some x := rfl
@[simp] theorem ScrCells.value_written (x : Scr) : (ScrCells.written x).value = some x := rfl
@[simp] theorem RegCells.value_unwritten : RegCells.unwritten.value = none := rfl
@[simp] theorem ScrCells.value_unwritten : ScrCells.unwritten.value = none := rfl

/-- Writing the four words one after the other captures the register. -/
@[simp] theorem RegCells.set_all (c : RegCells) (a b d e : Word) : (((c.set 0 a).set 1 b).set 2 d).set 3 e = .written ⟨a, b, d, e⟩ := rfl

/-- Writing both words one after the other captures the SCR. -/
@[simp] theorem ScrCells.set_all (c : ScrCells) (a b : Word) : (c.set 0 a).set 1 b = .written ⟨a, b⟩ := rfl

theorem RegCells.eq_written {c : RegCells} {x : Reg128} (h : c.value = some x) : c = .written x := by
  obtain ⟨c0, c1, c2, c3⟩ := c
  cases c0 <;> cases c1 <;> cases c2 <;> cases c3 <;> first | (cases h; done) | (cases h; rfl)

theorem ScrCells.eq_written {c : ScrCells} {x : Scr} (h : c.value = some x) : c = .written x := by
  obtain ⟨c0, c1⟩ := c
  cases c0 <;> cases c1 <;> first | (cases h; done) | (cases h; rfl)

@[simp] theorem CardInfo.layout_withLayout (c : CardInfo) (l : CsdLayout) : (c.withLayout l).layout = some l := by cases l <;> rfl

/-! ### Addresses of the register file (10 R51, 20 R81) -/

/-- No two registers share an address: an access reaches the register of the bound controller. -/
@[simp] theorem registerAt_registerAddress (i : Sdmmc) (r : Reg) : registerAt (registerAddress i r) = some (i, r) := by
  cases i <;> cases r <;> decide

theorem boundRegister_some {s : State} {i : Sdmmc} (h : s.session.bound = some i) (r : Reg) : boundRegister r s = some (i, r) := by
  simp [boundRegister, h]

theorem boundRegister_none {s : State} (h : s.session.bound = none) (r : Reg) : boundRegister r s = none := by simp [boundRegister, h]

end Sys2Proof.Machine
end

