-- ==== Sys2Proof/Laws/Act.lean ====
section
/-! SUPPORT. Laws/Act.lean: the steps of an agent run from a state: one lemma per control construct, and the logic of an assertion that every
outcome keeps. -/

namespace Sys2Proof.Machine

variable {α β : Type}

/-! ### Running -/

@[simp] theorem run_pure (a : α) (s : State) : (pure a : Act α) s = .ok a s := rfl

theorem run_bind_ok {m : Act α} {f : α → Act β} {s t : State} {a : α} (h : m s = .ok a t) : (m >>= f) s = f a t := by
  show EStateM.bind m f s = f a t
  simp [EStateM.bind, h]

theorem run_bind_error {m : Act α} {f : α → Act β} {s t : State} {e : Stop} (h : m s = .error e t) : (m >>= f) s = .error e t := by
  show EStateM.bind m f s = .error e t
  simp [EStateM.bind, h]

@[simp] theorem run_getState (s : State) : getState s = .ok s s := rfl
@[simp] theorem run_update (f : State → State) (s : State) : update f s = .ok () (f s) := rfl
@[simp] theorem run_raise (e : Fault) (s : State) : (raise e : Act α) s = .error (.fault e) s := rfl
@[simp] theorem run_refuse (e : Refusal) (s : State) : (refuse e : Act α) s = .error (.refused e) s := rfl
@[simp] theorem run_hold (h : Place) (s : State) : (hold h : Act α) s = .error (.hold h) s := rfl
@[simp] theorem run_goto (b : Frame) (pt : Point) (s : State) : b.goto pt s = .ok () (s.moved b.agent (b.callers ++ [pt])) := rfl
@[simp] theorem refuseIf_false (r : Refusal) : refuseIf false r = pure () := rfl
@[simp] theorem refuseIf_true (r : Refusal) : refuseIf true r = refuse r := rfl
@[simp] theorem raiseIf_false (r : Fault) : raiseIf false r = pure () := rfl
@[simp] theorem raiseIf_true (r : Fault) : raiseIf true r = raise r := rfl

@[simp] theorem run_getState_bind (f : State → Act β) (s : State) : (getState >>= f) s = f s s := rfl
@[simp] theorem run_update_bind (g : State → State) (f : Unit → Act β) (s : State) : (update g >>= f) s = f () (g s) := rfl
@[simp] theorem run_goto_bind (b : Frame) (pt : Point) (f : Unit → Act β) (s : State) :
    (b.goto pt >>= f) s = f () (s.moved b.agent (b.callers ++ [pt])) := rfl

/-- Statements that are no step leave the agent at the last of them. -/
theorem run_pass (b : Frame) (proc : Proc) (p : Nat × Nat) (rest : List (Nat × Nat)) (s : State) :
    b.pass proc (p :: rest) s = .ok () (s.moved b.agent (b.callers ++ [⟨proc, (rest.getLastD p).1, (rest.getLastD p).2⟩])) := by
  induction rest generalizing p s with
  | nil => rfl
  | cons q qs ih =>
    show b.pass proc (q :: qs) (s.moved b.agent (b.callers ++ [⟨proc, p.1, p.2⟩])) = _
    rw [ih, State.moved_moved, List.getLastD_cons]

@[simp] theorem run_pass_bind (b : Frame) (proc : Proc) (p : Nat × Nat) (rest : List (Nat × Nat)) (f : Unit → Act β) (s : State) :
    (b.pass proc (p :: rest) >>= f) s = f () (s.moved b.agent (b.callers ++ [⟨proc, (rest.getLastD p).1, (rest.getLastD p).2⟩])) :=
  run_bind_ok (run_pass b proc p rest s)

/-- A write of the session moves the agent to its statement and changes nothing else. -/
@[simp] theorem run_sessionWrite (b : Frame) (pt : Point) (g : Session → Session) (s : State) :
    sessionWrite b pt g s = .ok () ((s.setSession (g s.session)).moved b.agent (b.callers ++ [pt])) := by
  show EStateM.Result.ok () _ = _
  simp
@[simp] theorem run_sessionWrite_bind (b : Frame) (pt : Point) (g : Session → Session) (f : Unit → Act β) (s : State) :
    (sessionWrite b pt g >>= f) s = f () ((s.setSession (g s.session)).moved b.agent (b.callers ++ [pt])) :=
  run_bind_ok (run_sessionWrite b pt g s)

/-- A step is its position, then what happens at the boundary. -/
theorem run_step (b : Frame) (pt : Point) (s : State) : b.step pt s = b.between (s.moved b.agent (b.callers ++ [pt])) := rfl

theorem run_readOr {f : State → Option α} {s : State} {a : α} (h : f s = some a) : readOr f s = .ok a s := by
  show (match f s with | some a => (pure a : Act α) | none => raise .unwrittenSession) s = _
  rw [h]; rfl

theorem run_readOr_none {f : State → Option α} {s : State} (h : f s = none) : readOr f s = .error (.fault .unwrittenSession) s := by
  show (match f s with | some a => (pure a : Act α) | none => raise .unwrittenSession) s = _
  rw [h]; rfl

theorem run_readRcaArg {s : State} {rca : BitVec 16} (h : s.session.rca = some rca) : readRcaArg s = .ok (rcaArgument rca) s :=
  run_bind_ok (run_readOr h)

theorem run_thenOk_ok {op rest : Act Err} {s t : State} (h : op s = .ok .ok t) : thenOk op rest s = rest t := by
  rw [thenOk, run_bind_ok h]; rfl

theorem run_thenOk_stop {op rest : Act Err} {s t : State} {e : Err} (h : op s = .ok e t) (he : e ≠ .ok) : thenOk op rest s = .ok e t := by
  rw [thenOk, run_bind_ok h, if_neg he]; rfl

theorem conclude_ok {r : α → Result} {op : Act α} {s t : State} {a : α} (h : op s = .ok a t) :
    conclude r op s = .next (t.setReturn .idle (r a)) := by simp only [conclude, h]

theorem conclude_hold {r : α → Result} {op : Act α} {s t : State} {p : Place} (h : op s = .error (.hold p) t) :
    conclude r op s = .next (t.setHostStep (.inside p p.path)) := by simp only [conclude, h]

theorem conclude_fault {r : α → Result} {op : Act α} {s t : State} {e : Fault} (h : op s = .error (.fault e) t) :
    conclude r op s = .fault e := by simp only [conclude, h]

theorem conclude_refused {r : α → Result} {op : Act α} {s t : State} {e : Refusal} (h : op s = .error (.refused e) t) :
    conclude r op s = .refused e := by simp only [conclude, h]

/-- A call of `HOST` is its steps from its first statement. -/
theorem finish_eq (i : Instr) (r : α → Result) (op : Act α) (s : State) : finish i r op s = conclude r op (s.enter i) := rfl

theorem finish_ok {i : Instr} {r : α → Result} {op : Act α} {s t : State} {a : α} (h : op (s.enter i) = .ok a t) :
    finish i r op s = .next (t.setReturn .idle (r a)) := conclude_ok h

theorem finishOutside_ok {op : Act Unit} {s t : State} (h : op s = .ok () t) : finishOutside op s = .next t := by
  simp only [finishOutside, h]

/-! ### The logic -/

/-- A run has ended well: with a value and a state in `Q`, or with a stop in `E`. -/
def Ends (E : Stop → State → Prop) (Q : α → State → Prop) : EStateM.Result Stop State α → Prop
  | .ok a t => Q a t
  | .error e t => E e t

/-- From every state with `I`, `m` ends with a value and a state in `Q`, or stops with a reason and a state in `E`. -/
def Spec (E : Stop → State → Prop) (I : State → Prop) (m : Act α) (Q : α → State → Prop) : Prop :=
  ∀ s, I s → Ends E Q (m s)

variable {E : Stop → State → Prop} {I : State → Prop}

theorem Spec.pure {Q : α → State → Prop} {a : α} (h : ∀ s, I s → Q a s) : Spec E I (Pure.pure a) Q := fun s hs => h s hs

theorem Spec.bind {m : Act α} {f : α → Act β} {R : α → State → Prop} {Q : β → State → Prop} (hm : Spec E I m R)
    (hf : ∀ a, Spec E (R a) (f a) Q) : Spec E I (m >>= f) Q := by
  intro s hs
  have h := hm s hs
  cases hr : m s with
  | ok a t =>
    rw [run_bind_ok hr]
    rw [hr] at h
    exact hf a t h
  | error e t =>
    rw [run_bind_error hr]
    rw [hr] at h
    exact h

theorem Spec.imp {m : Act α} {J : State → Prop} {R Q : α → State → Prop} (hm : Spec E J m R) (hI : ∀ s, I s → J s)
    (hQ : ∀ a s, R a s → Q a s) : Spec E I m Q := by
  intro s hs
  have h := hm s (hI s hs)
  cases hr : m s with
  | ok a t => rw [hr] at h; exact hQ a t h
  | error e t => rw [hr] at h; exact h

theorem Spec.post {m : Act α} {R Q : α → State → Prop} (hm : Spec E I m R) (hQ : ∀ a s, R a s → Q a s) : Spec E I m Q :=
  hm.imp (fun _ h => h) hQ

theorem Spec.seq {m : Act α} {f : α → Act β} {Q : β → State → Prop} (hm : Spec E I m (fun _ => I)) (hf : ∀ a, Spec E I (f a) Q) :
    Spec E I (m >>= f) Q := hm.bind hf

theorem Spec.ite {c : Prop} [Decidable c] {m n : Act α} {Q : α → State → Prop} (h1 : c → Spec E I m Q) (h2 : ¬c → Spec E I n Q) :
    Spec E I (if c then m else n) Q := by
  by_cases h : c
  · rw [if_pos h]; exact h1 h
  · rw [if_neg h]; exact h2 h

theorem Spec.getState_bind {f : State → Act β} {Q : β → State → Prop} (h : ∀ s, I s → Spec E (fun t => t = s) (f s) Q) :
    Spec E I (getState >>= f) Q := fun s hs => h s hs s rfl

/-- Reading the state when the rest does not care which state with `I` it was. -/
theorem Spec.getState_seq {f : State → Act β} {Q : β → State → Prop} (h : ∀ s, I s → Spec E I (f s) Q) : Spec E I (getState >>= f) Q :=
  fun s hs => h s hs s hs

theorem Spec.update {f : State → State} {Q : Unit → State → Prop} (h : ∀ s, I s → Q () (f s)) : Spec E I (update f) Q := fun s hs => h s hs

theorem Spec.raise {e : Fault} {Q : α → State → Prop} (h : ∀ s, I s → E (.fault e) s) : Spec E I (raise e) Q := fun s hs => h s hs
theorem Spec.refuse {e : Refusal} {Q : α → State → Prop} (h : ∀ s, I s → E (.refused e) s) : Spec E I (refuse e) Q := fun s hs => h s hs
theorem Spec.hold {p : Place} {Q : α → State → Prop} (h : ∀ s, I s → E (.hold p) s) : Spec E I (hold p) Q := fun s hs => h s hs

theorem Spec.refuseIf {c : Bool} {r : Refusal} {Q : Unit → State → Prop} (h1 : c = true → ∀ s, I s → E (.refused r) s)
    (h2 : c = false → ∀ s, I s → Q () s) : Spec E I (refuseIf c r) Q := by
  cases c with
  | true => exact Spec.refuse (h1 rfl)
  | false => exact Spec.pure (h2 rfl)

theorem Spec.raiseIf {c : Bool} {r : Fault} {Q : Unit → State → Prop} (h1 : c = true → ∀ s, I s → E (.fault r) s)
    (h2 : c = false → ∀ s, I s → Q () s) : Spec E I (raiseIf c r) Q := by
  cases c with
  | true => exact Spec.raise (h1 rfl)
  | false => exact Spec.pure (h2 rfl)

theorem Spec.readOr {f : State → Option α} {Q : α → State → Prop} (hn : ∀ s, I s → f s = none → E (.fault .unwrittenSession) s)
    (ha : ∀ s a, I s → f s = some a → Q a s) : Spec E I (readOr f) Q := by
  intro s hs
  cases h : f s with
  | none => rw [run_readOr_none h]; exact hn s hs h
  | some a => rw [run_readOr h]; exact ha s a hs h

theorem Spec.thenOk {op rest : Act Err} (h1 : Spec E I op (fun _ => I)) (h2 : Spec E I rest (fun _ => I)) :
    Spec E I (thenOk op rest) (fun _ => I) :=
  h1.bind (fun _ => Spec.ite (fun _ => h2) (fun _ => Spec.pure (fun _ h => h)))

/-- The outcome of a call's steps: what they keep holds in the next state, if returning and holding keep it. -/
theorem conclude_spec {r : α → Result} {op : Act α} {Q : State → Prop} (h : Spec E I op (fun a t => Q (t.setReturn .idle (r a))))
    (hE : ∀ p t, E (.hold p) t → Q (t.setHostStep (.inside p p.path))) {s t : State} (hs : I s) (ht : conclude r op s = .next t) : Q t := by
  have h' := h s hs
  cases hr : op s with
  | ok a u =>
    rw [hr] at h'; rw [conclude_ok hr] at ht
    cases ht; exact h'
  | error e u =>
    rw [hr] at h'
    cases e with
    | fault f => rw [conclude_fault hr] at ht; cases ht
    | refused f => rw [conclude_refused hr] at ht; cases ht
    | hold p => rw [conclude_hold hr] at ht; cases ht; exact hE p u h'

theorem finishOutside_spec {op : Act Unit} {Q : State → Prop} (h : Spec E I op (fun _ t => Q t))
    (hE : ∀ p t, E (.hold p) t → Q (t.setHostStep (.inside p p.path))) {s t : State} (hs : I s) (ht : finishOutside op s = .next t) : Q t := by
  have h' := h s hs
  cases hr : op s with
  | ok a u =>
    rw [hr] at h'; simp only [finishOutside, hr] at ht
    cases ht; exact h'
  | error e u =>
    rw [hr] at h'
    simp only [finishOutside, hr] at ht
    cases e with
    | fault f => cases ht
    | refused f => cases ht
    | hold p => cases ht; exact hE p u h'

/-- A call that never stops: it answers a next state. -/
theorem finish_completes {i : Instr} {r : α → Result} {op : Act α} {Q : α → State → Prop} (h : Spec (fun _ _ => False) I op Q) {s : State}
    (hs : I (s.enter i)) : ∃ a t, finish i r op s = .next (t.setReturn .idle (r a)) ∧ Q a t := by
  have h' := h _ hs
  cases hr : op (s.enter i) with
  | ok a u => rw [hr] at h'; exact ⟨a, u, finish_ok hr, h'⟩
  | error e u => rw [hr] at h'; exact h'.elim

end Sys2Proof.Machine
end

