-- ==== Sys2Proof/Laws/Words.lean ====
section
/-! SUPPORT. Laws/Words.lean: the bits of the words the block handles: flags as bits, and the fields of the command word (30 R100, R101). -/

namespace Sys2Proof.Machine

/-- A flag with one bit set is that bit. -/
theorem hasFlag_bit (x : Word) {n : Nat} (hn : n < 32) : hasFlag x (BitVec.twoPow 32 n) = x.getLsbD n := by
  simp only [hasFlag, BitVec.and_twoPow]
  cases h : x.getLsbD n
  · simp
  · have : BitVec.twoPow 32 n ≠ 0#32 := by
      intro e
      have := congrArg (fun v : Word => v.getLsbD n) e
      simp [hn] at this
    simpa using this

/-- A command index has no bit above bit 5 (30 R130: u6). -/
theorem index_bit {c : Word} (hc : c.toNat < 64) {n : Nat} (hn : 6 ≤ n) : c.getLsbD n = false := by
  have : c.toNat < 2 ^ n := Nat.lt_of_lt_of_le hc (Nat.pow_le_pow_right (Nat.zero_lt_two) hn)
  exact Nat.testBit_lt_two_pow this

theorem cpsmen_eq : cpsmen = BitVec.twoPow 32 12 := by decide
theorem cmdtrans_eq : cmdtrans = BitVec.twoPow 32 6 := by decide

theorem waitResp_cases (rt : Int) : waitResp rt = 0 ∨ waitResp rt = 1 ∨ waitResp rt = 2 ∨ waitResp rt = 3 := by
  unfold waitResp
  split
  · exact .inl rfl
  · split
    · exact .inr (.inl rfl)
    · split
      · exact .inr (.inr (.inl rfl))
      · exact .inr (.inr (.inr rfl))

/-- `WR(rt)` is below 4. -/
theorem waitResp_bit (rt : Int) {n : Nat} (hn : 2 ≤ n) : (waitResp rt).getLsbD n = false := by
  rcases waitResp_cases rt with h | h | h | h <;> rw [h] <;> exact Nat.testBit_lt_two_pow
    (Nat.lt_of_lt_of_le (by decide : _ < 2 ^ 2) (Nat.pow_le_pow_right (by decide) hn))

@[simp] theorem commandWord_cpsmen (old c : Word) (rt : Int) : hasFlag (commandWord old c rt) cpsmen = true := by
  rw [cpsmen_eq, hasFlag_bit _ (by decide)]
  simp only [commandWord, BitVec.getLsbD_or]
  have : (cpsmen : Word).getLsbD 12 = true := by decide
  simp [this]

/-- `CMDTRANS` survives the write (30 R100). -/
theorem commandWord_cmdtrans (old : Word) {c : Word} (hc : c.toNat < 64) (rt : Int) :
    hasFlag (commandWord old c rt) cmdtrans = hasFlag old cmdtrans := by
  rw [cmdtrans_eq, hasFlag_bit _ (by decide), hasFlag_bit _ (by decide)]
  have h1 : (cmdClearMask : Word).getLsbD 6 = false := by decide
  have h2 : (cpsmen : Word).getLsbD 6 = false := by decide
  simp only [commandWord, BitVec.getLsbD_or, BitVec.getLsbD_and, BitVec.getLsbD_not, BitVec.getLsbD_shiftLeft, index_bit hc (Nat.le_refl 6), h1, h2]
  simp

/-- `WAITRESP` of the command word is `WR(rt)` (30 R101, R102). -/
theorem commandWord_waitResp (old : Word) {c : Word} (hc : c.toNat < 64) (rt : Int) :
    (commandWord old c rt).extractLsb' 8 2 = (waitResp rt).extractLsb' 0 2 := by
  apply BitVec.eq_of_getLsbD_eq
  intro n hn
  have h1 : ∀ n < 2, (cmdClearMask : Word).getLsbD (8 + n) = true := by decide
  have h2 : ∀ n < 2, (cpsmen : Word).getLsbD (8 + n) = false := by decide
  have hlt : ¬ (8 + n < 8) := by omega
  have hlt' : 8 + n < 32 := by omega
  simp only [BitVec.getLsbD_extractLsb', hn, decide_true, Bool.true_and, commandWord, BitVec.getLsbD_or, BitVec.getLsbD_and, BitVec.getLsbD_not,
    BitVec.getLsbD_shiftLeft, index_bit hc (show 6 ≤ 8 + n by omega), h1 n hn, h2 n hn, hlt, hlt', Nat.zero_add, Nat.add_sub_cancel_left,
    decide_false, Bool.not_false, Bool.and_true, Bool.not_true, Bool.and_false, Bool.false_or, Bool.or_false]

/-- A command expects no response exactly when its type is 0 (10 R67, 30 R102). -/
theorem commandWord_noResponse (old : Word) {c : Word} (hc : c.toNat < 64) (rt : Int) :
    noResponse (commandWord old c rt) = decide (waitResp rt = 0) := by
  unfold noResponse
  rw [commandWord_waitResp old hc rt]
  rcases waitResp_cases rt with h | h | h | h <;> rw [h] <;> decide

/-- A command expects an R2 frame exactly when its type is 2 (10 R54, 30 R102). -/
theorem commandWord_longResponse (old : Word) {c : Word} (hc : c.toNat < 64) (rt : Int) :
    longResponse (commandWord old c rt) = decide (waitResp rt = 3) := by
  unfold longResponse
  rw [commandWord_waitResp old hc rt]
  rcases waitResp_cases rt with h | h | h | h <;> rw [h] <;> decide

/-- The command index of the command word (30 R100). -/
theorem commandWord_index (old c : Word) (rt : Int) : (commandWord old c rt).extractLsb' 0 6 = c.extractLsb' 0 6 := by
  apply BitVec.eq_of_getLsbD_eq
  intro n hn
  have h1 : ∀ n < 6, (cmdClearMask : Word).getLsbD n = true := by decide
  have h2 : ∀ n < 6, (cpsmen : Word).getLsbD n = false := by decide
  have hlt : n < 8 := by omega
  simp only [BitVec.getLsbD_extractLsb', hn, decide_true, Bool.true_and, commandWord, BitVec.getLsbD_or, BitVec.getLsbD_and, BitVec.getLsbD_not,
    BitVec.getLsbD_shiftLeft, h1 n hn, h2 n hn, hlt, Nat.zero_add, Bool.not_true, Bool.and_false, Bool.false_or, Bool.or_false, Bool.false_and]

/-! ### Masks: what the transport clears, and what it waits for -/

theorem clearSetMask_cases (c : ClearSet) : clearSetMask c = cmdFlags ∨ clearSetMask c = staticFlags := by cases c <;> simp [clearSetMask]

/-- The transport clears only static flags (10 R59, 40 R161). -/
theorem clearedBy_clearSet (sta : Word) (c : ClearSet) : clearedBy sta (clearSetMask c) = sta &&& ~~~clearSetMask c := by
  unfold clearedBy
  congr 2
  cases c <;> decide

/-- Both wait sets are in both clear sets: a stale flag never ends the wait (40 R168). -/
theorem waitSet_cleared (sta : Word) (c : ClearSet) (rt : Int) : hasFlag (sta &&& ~~~clearSetMask c) (waitSet rt) = false := by
  have key : ∀ m : Word, ~~~clearSetMask c &&& m = 0 → hasFlag (sta &&& ~~~clearSetMask c) m = false := by
    intro m hm
    simp only [hasFlag, BitVec.and_assoc, hm]
    simp
  apply key
  unfold waitSet
  split <;> cases c <;> decide

/-- The flags of a command are cleared by the final write (40 R167). -/
theorem commandFlags_cleared (sta flags m : Word) (c : ClearSet) (hm : m &&& ~~~clearSetMask c = 0) :
    (sta &&& ~~~clearSetMask c ||| flags &&& m) &&& ~~~clearSetMask c = sta &&& ~~~clearSetMask c := by
  rw [BitVec.and_or_distrib_right, BitVec.and_assoc, BitVec.and_self, BitVec.and_assoc, hm]
  simp

end Sys2Proof.Machine
end

