-- ==== Sys2Proof/Laws/Quiet.lean ====
section
/-! SUPPORT. Laws/Quiet.lean: the steps of an agent run over a schedule that is known: one lemma per kind of step at a quiet boundary, and one for a whole command
that the card answers, or does not. -/

namespace Sys2Proof.Machine

variable {g : Agent} {f : Sdmmc → Act Unit} {cs : List Point} {pt : Point} {s : State} {i : Sdmmc}

/-- The frame of agent `g`, which stands in the calls `cs`; `f` says what an entry of `IRQ` does at its step boundaries. -/
abbrev frameOf (g : Agent) (f : Sdmmc → Act Unit) (cs : List Point) : Frame := ⟨g, between f, cs⟩

/-- A step whose boundary is quiet: only the agent's position moves on. -/
theorem step_quiet (hq : s.sched.headD [] = []) :
    (frameOf g f cs).step pt s = .ok () ((s.setSched s.sched.tail).moved g (cs ++ [pt])) := by
  rw [run_step]
  show (match (s.moved g (cs ++ [pt])).sched with
    | [] => EStateM.Result.ok () (s.moved g (cs ++ [pt]))
    | slot :: rest => runMoves f slot ((s.moved g (cs ++ [pt])).setSched rest)) = _
  rw [State.moved_sched]
  cases hs : s.sched with
  | nil =>
    have : s.setSched [] = s := by rw [← hs]; rfl
    simp only [List.tail_nil, this]
  | cons slot rest =>
    rw [hs] at hq
    have : slot = [] := hq
    subst this
    simp [runMoves]

/-- The moves of `ENV` in order. -/
def envMoves (moves : List Move) (s : State) : State := moves.foldl (fun s m => applyEnv m s) s

theorem runMoves_env {moves : List Move} (h : ∀ m ∈ moves, m.fromEnv = true) (s : State) : runMoves f moves s = .ok () (envMoves moves s) := by
  induction moves generalizing s with
  | nil => rfl
  | cons m rest ih =>
    have hm := h m (List.mem_cons_self ..)
    have hr := ih (fun x hx => h x (List.mem_cons_of_mem _ hx)) (applyEnv m s)
    cases m <;> first | exact hr | cases hm

/-- Whether a byte sent races with the host depends on the buffers in use only. -/
theorem sentFrom_windows {s t : State} (h : t.windows = s.windows) (a : Nat) (b : Byte) : sentFrom t a b = sentFrom s a b := by
  unfold sentFrom bufferInUse
  rw [h]

/-- `ENV` does not see where an agent stands. -/
theorem applyEnv_moved (m : Move) (s : State) (n : List Point) : applyEnv m (s.moved g n) = (applyEnv m s).moved g n := by
  have store : ∀ (i : Sdmmc) (bytes : List Byte) (s : State), dmaStore i bytes (s.moved g n) = (dmaStore i bytes s).moved g n := by
    intro i bytes
    induction bytes with
    | nil => intro s; rfl
    | cons b rest ih =>
      intro s
      simp only [dmaStore, State.moved_periph, State.moved_mem, State.moved_setMem, State.moved_setPeriph, ih]
      split <;> rfl
  have byte : ∀ (s : State) (a : Nat), byteForCard (s.moved g n) a = ((byteForCard s a).1, (byteForCard s a).2.moved g n) := by
    intro s a
    simp only [byteForCard, State.moved_tainted, State.moved_draws, State.moved_setDraws, State.moved_mem]
    split <;> rfl
  have sent : ∀ (s : State) (x : List SentByte), { s.moved g n with sent := x } = ({ s with sent := x } : State).moved g n := by
    intro s x; cases g <;> rfl
  have send : ∀ (i : Sdmmc) (k : Nat) (s : State), dmaSend i k (s.moved g n) = (dmaSend i k s).moved g n := by
    intro i k
    induction k with
    | zero => intro s; rfl
    | succ k ih =>
      intro s
      simp only [dmaSend, State.moved_periph, byte, sentFrom_windows (State.moved_windows s g n), State.moved_sent, sent, State.moved_setPeriph, ih]
      split <;> rfl
  cases m with
  | pin level | delayRuns running => cases g <;> rfl
  | irq i => rfl
  | dmaStore i bytes => simp only [applyEnv, State.moved_periph, store]; split <;> rfl
  | dmaSend i k => simp only [applyEnv, State.moved_periph, send]; split <;> rfl
  | fifoSend i => simp only [applyEnv, State.moved_periph, State.moved_sent, sent, State.moved_setPeriph]; split <;> rfl
  | _ => simp only [applyEnv, State.moved_periph, State.moved_setPeriph] <;> (try split) <;> rfl

theorem envMoves_moved (moves : List Move) (s : State) (n : List Point) : envMoves moves (s.moved g n) = (envMoves moves s).moved g n := by
  induction moves generalizing s with
  | nil => rfl
  | cons m rest ih =>
    show envMoves rest (applyEnv m (s.moved g n)) = _
    rw [applyEnv_moved, ih]
    rfl

/-- `ENV` does not see the mark of an accepted CMD55. -/
theorem applyEnv_setAppCmd (m : Move) (s : State) (c : Bool) : applyEnv m (s.setAppCmd c) = (applyEnv m s).setAppCmd c := by
  have store : ∀ (i : Sdmmc) (bytes : List Byte) (s : State), dmaStore i bytes (s.setAppCmd c) = (dmaStore i bytes s).setAppCmd c := by
    intro i bytes
    induction bytes with
    | nil => intro s; rfl
    | cons b rest ih =>
      intro s
      simp only [dmaStore, State.setAppCmd_periph, State.setAppCmd_mem, State.setAppCmd_setMem, State.setAppCmd_setPeriph, ih]
      split <;> rfl
  have byte : ∀ (s : State) (a : Nat), byteForCard (s.setAppCmd c) a = ((byteForCard s a).1, (byteForCard s a).2.setAppCmd c) := by
    intro s a
    show (if s.tainted.contains a then _ else _) = ((if s.tainted.contains a then _ else _ : Byte × State).1, _)
    cases h : s.tainted.contains a <;> simp only [byteForCard, h] <;> rfl
  have sent : ∀ (s : State) (x : List SentByte), { s.setAppCmd c with sent := x } = ({ s with sent := x } : State).setAppCmd c := fun _ _ => rfl
  have send : ∀ (i : Sdmmc) (k : Nat) (s : State), dmaSend i k (s.setAppCmd c) = (dmaSend i k s).setAppCmd c := by
    intro i k
    induction k with
    | zero => intro s; rfl
    | succ k ih =>
      intro s
      simp only [dmaSend, State.setAppCmd_periph, byte, sentFrom_windows (State.setAppCmd_windows s c), State.setAppCmd_sent, sent, State.setAppCmd_setPeriph, ih]
      split <;> rfl
  cases m with
  | pin level | delayRuns running => rfl
  | irq i => rfl
  | dmaStore i bytes => simp only [applyEnv, State.setAppCmd_periph, store]; split <;> rfl
  | dmaSend i k => simp only [applyEnv, State.setAppCmd_periph, send]; split <;> rfl
  | fifoSend i => simp only [applyEnv, State.setAppCmd_periph, State.setAppCmd_sent, sent, State.setAppCmd_setPeriph]; split <;> rfl
  | _ => simp only [applyEnv, State.setAppCmd_periph, State.setAppCmd_setPeriph] <;> (try split) <;> rfl

theorem envMoves_setAppCmd (moves : List Move) (s : State) (c : Bool) : envMoves moves (s.setAppCmd c) = (envMoves moves s).setAppCmd c := by
  induction moves generalizing s with
  | nil => rfl
  | cons m rest ih =>
    show envMoves rest (applyEnv m (s.setAppCmd c)) = _
    rw [applyEnv_setAppCmd, ih]
    rfl

/-- A step at whose boundary `ENV` moves. -/
theorem step_env {moves : List Move} {rest : List (List Move)} (hs : s.sched = moves :: rest) (h : ∀ m ∈ moves, m.fromEnv = true) :
    (frameOf g f cs).step pt s = .ok () ((envMoves moves (s.setSched rest)).moved g (cs ++ [pt])) := by
  rw [run_step]
  show (match (s.moved g (cs ++ [pt])).sched with
    | [] => EStateM.Result.ok () (s.moved g (cs ++ [pt]))
    | slot :: rest => runMoves f slot ((s.moved g (cs ++ [pt])).setSched rest)) = _
  rw [State.moved_sched, hs]
  show runMoves f moves ((s.moved g (cs ++ [pt])).setSched rest) = _
  rw [runMoves_env h, State.moved_setSched, envMoves_moved]

/-- A register write after a boundary that led to `t`. -/
theorem regWrite_run {b : Frame} {t : State} (hb : b.step pt s = .ok () t) (hi : t.session.bound = some i) (r : Reg) (v : Word) :
    regWrite b pt r v s = .ok () (t.setPeriph i ((t.periph i).write r v)) := by
  rw [regWrite, run_bind_ok hb, run_getState_bind, boundRegister_some hi]
  rfl

/-- A register read after a boundary that led to `t`, of a register that is not the empty FIFO. -/
theorem regRead_run {b : Frame} {t : State} (hb : b.step pt s = .ok () t) (hi : t.session.bound = some i) {r : Reg}
    (hr : r = .fifo → (t.periph i).fifo ≠ []) : regRead b pt r s = .ok ((t.periph i).value r) (t.setPeriph i ((t.periph i).afterRead r)) := by
  rw [regRead, run_bind_ok hb, run_getState_bind, boundRegister_some hi]
  have hc : ¬ ((decide (r = Reg.fifo) && (t.periph i).fifo.isEmpty) = true) := by
    simp only [Bool.and_eq_true, decide_eq_true_eq, List.isEmpty_iff]
    exact fun h => hr h.1 h.2
  show (if (decide (r = Reg.fifo) && (t.periph i).fifo.isEmpty) = true then drawWord else pure ((t.periph i).value r)) _ = _
  rw [if_neg hc]
  rfl

/-- A read without a side effect leaves the state. -/
theorem regRead_plain {b : Frame} {t : State} (hb : b.step pt s = .ok () t) (hi : t.session.bound = some i) {r : Reg} (h : r ≠ .fifo) :
    regRead b pt r s = .ok ((t.periph i).value r) t := by
  rw [regRead_run hb hi (fun e => absurd e h)]
  have : (t.periph i).afterRead r = t.periph i := by cases r <;> first | rfl | exact absurd rfl h
  rw [this, State.setPeriph_periph]

theorem regWrite_quiet (hq : s.sched.headD [] = []) (hi : s.session.bound = some i) (r : Reg) (v : Word) :
    regWrite (frameOf g f cs) pt r v s =
      .ok () (((s.setSched s.sched.tail).setPeriph i ((s.periph i).write r v)).moved g (cs ++ [pt])) := by
  rw [regWrite_run (step_quiet hq) (by simpa using hi)]
  simp

theorem regRead_quiet (hq : s.sched.headD [] = []) (hi : s.session.bound = some i) {r : Reg} (h : r ≠ .fifo) :
    regRead (frameOf g f cs) pt r s = .ok ((s.periph i).value r) ((s.setSched s.sched.tail).moved g (cs ++ [pt])) := by
  rw [regRead_plain (step_quiet hq) (by simpa using hi) h]
  simp

theorem regSet_quiet {rest : List (List Move)} (hs : s.sched = [] :: [] :: rest) (hi : s.session.bound = some i) {r : Reg} (h : r ≠ .fifo)
    (m : Word) (proc : Proc) (line : Nat) : regSet (frameOf g f cs) proc line r m s = .ok () (((s.setSched rest).setPeriph i
      ((s.periph i).write r ((s.periph i).value r ||| m))).moved g (cs ++ [⟨proc, line, 2⟩])) := by
  rw [regSet, run_bind_ok (regRead_quiet (by rw [hs]; rfl) hi h), regWrite_quiet (i := i) (by simp [hs]) (by simpa using hi)]
  simp [hs]

theorem regClr_quiet {rest : List (List Move)} (hs : s.sched = [] :: [] :: rest) (hi : s.session.bound = some i) {r : Reg} (h : r ≠ .fifo)
    (m : Word) (proc : Proc) (line : Nat) : regClr (frameOf g f cs) proc line r m s = .ok () (((s.setSched rest).setPeriph i
      ((s.periph i).write r ((s.periph i).value r &&& ~~~m))).moved g (cs ++ [⟨proc, line, 2⟩])) := by
  rw [regClr, run_bind_ok (regRead_quiet (by rw [hs]; rfl) hi h), regWrite_quiet (i := i) (by simp [hs]) (by simpa using hi)]
  simp [hs]

theorem xferWrite_quiet (hq : s.sched.headD [] = []) (h : Transfer → Transfer) :
    xferWrite (frameOf g f cs) pt h s = .ok () (((s.setSched s.sched.tail).setXfer (h s.xfer)).moved g (cs ++ [pt])) := by
  rw [xferWrite, run_bind_ok (step_quiet hq)]
  simp

theorem xferRead_quiet {α : Type} (hq : s.sched.headD [] = []) (h : Transfer → α) :
    xferRead (frameOf g f cs) pt h s = .ok (h s.xfer) ((s.setSched s.sched.tail).moved g (cs ++ [pt])) := by
  rw [xferRead, run_bind_ok (step_quiet hq), run_getState_bind]
  simp

/-- The admission at two quiet boundaries: the refusal if a transfer is in progress, else two steps later. -/
theorem refuseOutstanding_quiet {rest : List (List Move)} (hs : s.sched = [] :: [] :: rest) (proc : Proc) (line : Nat) :
    refuseOutstanding (frameOf g f cs) proc line s =
      refuseIf (s.xfer.rxCplt || s.xfer.txCplt) .transferOutstanding ((s.setSched rest).moved g (cs ++ [⟨proc, line, 2⟩])) := by
  rw [refuseOutstanding, run_bind_ok (xferRead_quiet (by rw [hs]; rfl) _), run_bind_ok (xferRead_quiet (by simp [hs]) _)]
  simp [hs]

/-! ### A command up to its poll -/

/-- The four writes of a command are `Periph.commanded`. -/
theorem writes_commanded (p : Periph) (cs : ClearSet) {c : Word} (hc : c.toNat < 64) (a : Word) (rt : Int) :
    ((p.write .icr (clearSetMask cs)).write .argr a).write .cmdr (commandWord p.cmdr c rt) = p.commanded (clearSetMask cs) c a rt := by
  have h1 : hasFlag (commandWord p.cmdr c rt) cpsmen = true := commandWord_cpsmen _ _ _
  have h2 := commandWord_cmdtrans p.cmdr hc rt
  simp only [Periph.write, h1, h2, Bool.true_and, Periph.commanded, Periph.transStale, Periph.idmaen, clearedBy_clearSet]

/-- Where the agent stands when the wait has ended. -/
abbrev atPoll (cs : List Point) : List Point := cs ++ [⟨.transmitCommand, 8, 0⟩]

/-- Where the agent stands after a poll that saw no flag. -/
abbrev afterPoll (cs : List Point) : List Point := cs ++ [⟨.transmitCommand, 11, 0⟩]

/-- One poll that sees no flag of the wait set. -/
theorem pollStatus_once (wait : Word) (m : Nat) (hq : s.sched.headD [] = []) (hi : s.session.bound = some i)
    (hm : hasFlag (s.periph i).sta wait = false) :
    pollStatus (frameOf g f cs) wait (m + 1) s = pollStatus (frameOf g f cs) wait m ((s.setSched s.sched.tail).moved g (afterPoll cs)) := by
  rw [pollStatus, run_pass_bind, run_bind_ok (regRead_quiet (i := i) (by simpa using hq) (by simpa using hi) (by decide)), run_pass_bind]
  rw [show ∀ path, ((s.moved (frameOf g f cs).agent path).periph i).value .sta = (s.periph i).sta by simp [Periph.value], hm, if_neg (by decide)]
  simp

/-- Polls that see no flag of the wait set. -/
theorem pollStatus_miss (wait : Word) (n m : Nat) (path : List Point) (hi : s.session.bound = some i)
    (hm : hasFlag (s.periph i).sta wait = false) {rest : List (List Move)} (hs : s.sched = quiet n ++ rest) :
    pollStatus (frameOf g f cs) wait (n + m) (s.moved g path) =
      pollStatus (frameOf g f cs) wait m ((s.setSched rest).moved g (if n = 0 then path else afterPoll cs)) := by
  induction n generalizing s path with
  | zero =>
    have : s.setSched rest = s := by
      have : rest = s.sched := by rw [hs]; rfl
      rw [this]; rfl
    rw [this, Nat.zero_add, if_pos rfl]
  | succ n ih =>
    have ht : s.sched.tail = quiet n ++ rest := by rw [hs]; rfl
    rw [show n + 1 + m = (n + m) + 1 by omega, pollStatus_once (i := i) _ _ (by rw [State.moved_sched, hs]; rfl) (by simpa using hi) (by simpa using hm)]
    simp only [State.moved_sched, State.moved_setSched, State.moved_moved]
    rw [ih _ (by simpa using hi) (by simpa using hm) (by simpa using ht), if_neg (Nat.succ_ne_zero n), State.setSched_setSched]
    split <;> rfl

/-- The wait of a card that stays silent: every poll is made, none sees a flag (40 R166). -/
theorem pollStatus_silent (wait : Word) (n : Nat) (hi : s.session.bound = some i) (hm : hasFlag (s.periph i).sta wait = false)
    (hs : ∀ slot ∈ s.sched, slot = []) :
    pollStatus (frameOf g f cs) wait n s = .ok false ((s.setSched (s.sched.drop n)).moved g (atPoll cs)) := by
  induction n generalizing s with
  | zero =>
    rw [pollStatus, run_pass_bind]
    rfl
  | succ n ih =>
    have hq : s.sched.headD [] = [] := by
      cases h : s.sched with
      | nil => rfl
      | cons slot rest => exact hs slot (by rw [h]; exact List.mem_cons_self ..)
    rw [pollStatus_once _ _ hq hi hm]
    rw [ih (by simpa using hi) (by simpa using hm) (fun slot h => hs slot (List.mem_of_mem_tail (by simpa using h)))]
    simp [List.drop_tail]

/-- The last steps of a command: the result of its wait, the final clear, the mark of an accepted CMD55. -/
def closeCommand (b : Frame) (clear : Word) (op : Act Err) : Act Err := do
  let e ← op
  regWrite b ⟨.transmitCommand, 14, 1⟩ .icr clear
  update (fun s => s.setAppCmd (s.appCmd && e = .ok))
  b.pass .transmitCommand [(15, 0)]
  pure e

/-- Where the agent stands when a command's wait begins. -/
abbrev atWait (cs : List Point) : List Point := cs ++ [⟨.transmitCommand, 7, 1⟩]

/-- The first four steps of a command, at quiet boundaries: it stands before its first poll. -/
theorem transmit_start (hi : s.session.bound = some i) {c : Word} (hc : c.toNat < 64) (a : Word) (rt : Int)
    (hs : ∀ n < 4, (s.sched.drop n).headD [] = []) : transmitAdmitted (frameOf g f cs) c a rt s =
      (do
        let hit ← pollStatus (frameOf g f cs) (waitSet rt) s.cfg.cmdBudget
        closeCommand (frameOf g f cs) s.clearMask (commandResult (frameOf g f cs) hit c rt) : Act Err)
        ((((s.setSched (s.sched.drop 4)).setPeriph i ((s.periph i).commanded s.clearMask c a rt)).setAppCmd (c = 55)).moved g (atWait cs)) := by
  rw [transmitAdmitted, run_pass_bind, run_getState_bind]
  rw [run_bind_ok (regWrite_quiet (i := i) (by simpa using hs 0 (by decide)) (by simpa using hi) _ _)]
  rw [run_bind_ok (regWrite_quiet (i := i) (by simpa using hs 1 (by decide)) (by simpa using hi) _ _)]
  rw [run_bind_ok (regRead_quiet (i := i) (r := .cmdr) (by simpa using hs 2 (by decide)) (by simpa using hi) (by decide))]
  rw [run_bind_ok (regWrite_quiet (i := i) (by simpa using hs 3 (by decide)) (by simpa using hi) _ _), run_update_bind, run_pass_bind]
  have hcm : (((s.periph i).write .icr (clearSetMask s.cfg.clearSet)).write .argr a).value .cmdr = (s.periph i).cmdr := rfl
  have ht : s.sched.drop 4 = s.sched.tail.tail.tail.tail := by simp only [← List.drop_one, List.drop_drop]
  simp only [State.clearMask, ht, ← writes_commanded (s.periph i) s.cfg.clearSet hc a rt]
  simp [State.setPeriph_setSched, hcm, closeCommand]

/-! ### A command that the card answers -/

/-- The poll that sees the answer. -/
theorem pollStatus_hit {t : State} {moves : List Move} {rest : List (List Move)} (wait : Word) (n : Nat) (hs : s.sched = moves :: rest)
    (hm : ∀ m ∈ moves, m.fromEnv = true) (ht : envMoves moves (s.setSched rest) = t) (hi : t.session.bound = some i)
    (hf : hasFlag (t.periph i).sta wait = true) : pollStatus (frameOf g f cs) wait (n + 1) s = .ok true (t.moved g (atPoll cs)) := by
  have hb : (frameOf g f cs).step ⟨.transmitCommand, 9, 1⟩ (s.moved g (atPoll cs)) = .ok () (t.moved g (cs ++ [⟨.transmitCommand, 9, 1⟩])) := by
    rw [step_env (rest := rest) (by simpa using hs) hm, State.moved_setSched, envMoves_moved, ht, State.moved_moved]
  rw [pollStatus, run_pass_bind]
  show (regRead (frameOf g f cs) ⟨.transmitCommand, 9, 1⟩ .sta >>= _) (s.moved g (atPoll cs)) = _
  rw [run_bind_ok (regRead_plain hb (by simpa using hi) (by decide)), run_pass_bind]
  rw [show ((t.moved g (cs ++ [⟨.transmitCommand, 9, 1⟩])).periph i).value .sta = (t.periph i).sta by simp [Periph.value], if_pos hf, run_pass_bind]
  simp

/-- The last steps of a command after a wait that saw a flag: classification, the final clear, the result. -/
def afterWait (b : Frame) (clear command : Word) (rt : Int) : Act Err := closeCommand b clear (commandResult b true command rt)

/-- A command up to its classification: the card answers at poll `k + 1`, within the budget (40 R165). -/
theorem transmit_answered {t : State} {moves : List Move} {rest : List (List Move)} {k : Nat} (hi : s.session.bound = some i) {c : Word}
    (hc : c.toNat < 64) (a : Word) (rt : Int) (hk : k ≤ s.cfg.cmdBudgetLess1) (hs : s.sched = quiet (4 + k) ++ moves :: rest)
    (hm : ∀ m ∈ moves, m.fromEnv = true)
    (ht : envMoves moves ((s.setSched rest).setPeriph i ((s.periph i).commanded s.clearMask c a rt)) = t) (hti : t.session.bound = some i)
    (hf : hasFlag (t.periph i).sta (waitSet rt) = true) :
    transmitAdmitted (frameOf g f cs) c a rt s =
      afterWait (frameOf g f cs) s.clearMask c rt ((t.setAppCmd (c = 55)).moved g (atPoll cs)) := by
  have hs' : s.sched = [] :: [] :: [] :: [] :: (quiet k ++ moves :: rest) := by
    rw [hs, show 4 + k = k + 4 by omega]; rfl
  rw [transmit_start hi hc a rt (by intro n hn; rw [hs']; match n, hn with | 0, _ | 1, _ | 2, _ | 3, _ => rfl),
    show s.sched.drop 4 = quiet k ++ moves :: rest by rw [hs']; rfl]
  obtain ⟨m, hm'⟩ : ∃ m, s.cfg.cmdBudget = k + (m + 1) := ⟨s.cfg.cmdBudgetLess1 - k, by unfold Params.cmdBudget; omega⟩
  rw [hm']
  have hmiss : hasFlag ((s.periph i).commanded s.clearMask c a rt).sta (waitSet rt) = false := waitSet_cleared _ _ _
  have hpoll : pollStatus (frameOf g f cs) (waitSet rt) (k + (m + 1))
      ((((s.setSched (quiet k ++ moves :: rest)).setPeriph i ((s.periph i).commanded s.clearMask c a rt)).setAppCmd (c = 55)).moved g
        (atWait cs)) = .ok true ((t.setAppCmd (c = 55)).moved g (atPoll cs)) := by
    rw [pollStatus_miss (i := i) (rest := moves :: rest) (waitSet rt) k (m + 1) _ (by simpa using hi) (by simpa using hmiss) (by simp)]
    rw [pollStatus_hit (i := i) (t := (t.setAppCmd (c = 55)).moved g (if k = 0 then atWait cs else afterPoll cs)) (moves := moves) (rest := rest)
      (waitSet rt) m (by simp) hm ?_ (by simpa using hti) (by simpa using hf), State.moved_moved]
    rw [← ht]
    simp only [State.moved_setSched, envMoves_moved, envMoves_setAppCmd, State.setAppCmd_setSched, State.setPeriph_setSched, State.setSched_setSched]
  rw [run_bind_ok hpoll]
  rfl

/-- What the short answer does to a controller with a started command that expects a response. -/
theorem envMoves_short (t : State) (index response flags : Word) (ha : (t.periph i).commandActive = true) (ho : (t.periph i).respOpen = true)
    (hn : noResponse (t.periph i).cmdr = false) (hl : longResponse (t.periph i).cmdr = false) (hf : hasFlag flags respWait = true) :
    envMoves (shortAnswer i index response flags) t =
      t.setPeriph i { (t.periph i).ended with
        respcmdr := index, resp1 := response, sta := (t.periph i).sta ||| (flags &&& respWait) } := by
  have ha' : hasFlag (t.periph i).cmdr cpsmen = true := ha
  cases i <;>
    simp [envMoves, shortAnswer, applyEnv, Periph.commandActive, State.periph, State.setPeriph, Periph.setResp, Periph.setCommandFlags,
      Periph.commandFlags, Periph.ended] at ha' ho hn hl ⊢ <;> simp [ha', ho, hn, hl, hf]

theorem envMoves_long (t : State) (x : Reg128) (flags : Word) (ha : (t.periph i).commandActive = true) (ho : (t.periph i).respOpen = true)
    (hn : noResponse (t.periph i).cmdr = false) (hl : longResponse (t.periph i).cmdr = true) (hf : hasFlag flags respWait = true) :
    envMoves (longAnswer i x flags) t =
      t.setPeriph i { (t.periph i).ended with
        resp1 := x.w0, resp2 := x.w1, resp3 := x.w2, resp4 := x.w3 &&& ~~~(1 : Word), sta := (t.periph i).sta ||| (flags &&& respWait) } := by
  have ha' : hasFlag (t.periph i).cmdr cpsmen = true := ha
  cases i <;>
    simp [envMoves, longAnswer, applyEnv, Periph.commandActive, State.periph, State.setPeriph, Periph.setResp, Periph.setCommandFlags,
      Periph.commandFlags, Periph.ended] at ha' ho hn hl ⊢ <;> simp [ha', ho, hn, hl, hf, BitVec.and_assoc]

theorem envMoves_sent (t : State) (ha : (t.periph i).commandActive = true)
    (hn : noResponse (t.periph i).cmdr = true) : envMoves [.cmdFlags i cmdsent, .cmdEnd i] t =
      t.setPeriph i { (t.periph i).ended with sta := (t.periph i).sta ||| cmdsent } := by
  have ha' : hasFlag (t.periph i).cmdr cpsmen = true := ha
  have hf : hasFlag cmdsent cmdsent = true := by decide
  have hr : hasFlag cmdsent (respWait &&& ~~~ctimeout) = false := by decide
  cases i <;>
    simp [envMoves, applyEnv, Periph.commandActive, State.periph, State.setPeriph, Periph.setCommandFlags, Periph.commandFlags,
      Periph.ended] at ha' hn ⊢ <;> simp [ha', hn, hf, hr]

end Sys2Proof.Machine
end

