-- ==== Sys2Proof/Laws/Command.lean ====
section
/-! SUPPORT. Laws/Command.lean: one whole command over a known schedule: what it returns and the state it leaves, for each response type, when the card answers
and when it stays silent (40 R165 to R175). -/

namespace Sys2Proof.Machine

variable {g : Agent} {f : Sdmmc → Act Unit} {cs : List Point} {pt : Point} {s t : State} {i : Sdmmc}

/-- Where the agent stands when a command returns. -/
abbrev atEnd (cs : List Point) : List Point := cs ++ [⟨.transmitCommand, 15, 0⟩]

theorem setSched_self (h : t.sched = []) : t.setSched [] = t := by rw [← h]; rfl

/-- A read when the schedule is used up leaves all but the agent's position. -/
theorem regRead_still (hs : t.sched = []) (hi : t.session.bound = some i) {r : Reg} (h : r ≠ .fifo) :
    regRead (frameOf g f cs) pt r t = .ok ((t.periph i).value r) (t.moved g (cs ++ [pt])) := by
  rw [regRead_quiet (by rw [hs]; rfl) hi h, hs, List.tail_nil, setSched_self hs]

theorem regWrite_still (hs : t.sched = []) (hi : t.session.bound = some i) (r : Reg) (v : Word) :
    regWrite (frameOf g f cs) pt r v t = .ok () ((t.setPeriph i ((t.periph i).write r v)).moved g (cs ++ [pt])) := by
  rw [regWrite_quiet (by rw [hs]; rfl) hi, hs, List.tail_nil, setSched_self hs]

/-! ### Classification (40 R170) -/

/-- The result of `classify` as the cascade of 40 R170 gives it, from the registers it reads; none where no rule gives one. -/
def classified (command : Word) (rt : Int) (sta respcmdr resp1 : Word) : Option Err :=
  match classifyFlags sta rt with
  | some e => some e
  | none =>
    if responseTypeAdmitted rt then
      if (respcmdr &&& 0x3F) = command then
        if rt = 1 then some (decodeCardStatus resp1)
        else if (resp1 &&& r6ErrorBits) = 0 then some .ok else some (r6Error resp1)
      else some .illegalCommand
    else none

/-- The session after a classification: the RCA latched on a type 6 response with zero error bits (40 R184). -/
def latched (command : Word) (rt : Int) (sta respcmdr resp1 : Word) (x : Session) : Session :=
  if classifyFlags sta rt = none ∧ (respcmdr &&& 0x3F) = command ∧ rt ≠ 1 ∧ (resp1 &&& r6ErrorBits) = 0 then
    { x with rca := some (resp1.extractLsb' 16 16) }
  else x

/-- `classify` when the schedule is used up, in one, two or three steps. -/
theorem classify_still (hs : t.sched = []) (hi : t.session.bound = some i) {command : Word} {rt : Int} {e : Err}
    (he : classified command rt (t.periph i).sta (t.periph i).respcmdr (t.periph i).resp1 = some e) :
    ∃ path, classify (frameOf g f cs) command rt t =
      .ok e ((t.setSession (latched command rt (t.periph i).sta (t.periph i).respcmdr (t.periph i).resp1 t.session)).moved g path) := by
  have go : ∀ m pt, regRead (frameOf g f cs) pt .respcmdr (t.moved g m) = .ok (t.periph i).respcmdr (t.moved g (cs ++ [pt])) := by
    intro m pt
    rw [regRead_still (i := i) (by simpa using hs) (by simpa using hi) (by decide)]
    simp [Periph.value]
  have go' : ∀ m pt, regRead (frameOf g f cs) pt .resp1 (t.moved g m) = .ok (t.periph i).resp1 (t.moved g (cs ++ [pt])) := by
    intro m pt
    rw [regRead_still (i := i) (by simpa using hs) (by simpa using hi) (by decide)]
    simp [Periph.value]
  rw [classify, run_bind_ok (regRead_still hs hi (by decide)), run_pass_bind, State.moved_moved]
  rw [show (t.periph i).value .sta = (t.periph i).sta from rfl]
  unfold classified at he
  cases hc : classifyFlags (t.periph i).sta rt with
  | some e' =>
    rw [hc] at he
    cases he
    exact ⟨_, by simp [latched, hc]; rfl⟩
  | none =>
    rw [hc] at he
    by_cases hadm : responseTypeAdmitted rt = true
    · simp only [hadm, if_true] at he
      simp only [hadm, Bool.not_true, refuseIf_false]
      rw [run_bind_ok (run_pure () _), run_bind_ok (go _ _)]
      by_cases hx : ((t.periph i).respcmdr &&& 0x3F) = command
      · rw [if_pos hx] at he ⊢
        rw [run_bind_ok (go' _ _), run_pass_bind]
        by_cases h1 : rt = 1
        · rw [if_pos h1] at he ⊢
          cases he
          exact ⟨_, by rw [decodeStatus, run_pass_bind]; simp [latched, h1]; rfl⟩
        · rw [if_neg h1] at he ⊢
          by_cases hz : ((t.periph i).resp1 &&& r6ErrorBits) = 0
          · rw [if_pos hz] at he
            cases he
            refine ⟨cs ++ [⟨.classify, 12, 1⟩] ++ [⟨.decodeR6, 3, 0⟩], ?_⟩
            rw [run_pass_bind, decodeR6, run_pass_bind, if_pos hz, latched, if_pos ⟨hc, hx, h1, hz⟩, run_sessionWrite_bind, run_pass_bind]
            simp
          · rw [if_neg hz] at he
            cases he
            refine ⟨cs ++ [⟨.classify, 12, 1⟩] ++ [⟨.decodeR6, ((r6Points (r6Error (t.periph i).resp1)).getLastD (4, 0)).1,
              ((r6Points (r6Error (t.periph i).resp1)).getLastD (4, 0)).2⟩], ?_⟩
            rw [run_pass_bind, decodeR6, run_pass_bind, if_neg hz, run_pass_bind, latched, if_neg (fun h => hz h.2.2.2)]
            simp
      · rw [if_neg hx] at he ⊢
        cases he
        refine ⟨cs ++ [⟨.classify, 9, 2⟩], ?_⟩
        rw [run_pass_bind, latched, if_neg (fun h => hx h.2.1)]
        simp
    · simp [hadm] at he

/-- The classification of a type 1 or type 6 response that passed the flag checks and echoes the index. -/
theorem classify_echoed {rest : List (List Move)} (hs : t.sched = [] :: [] :: [] :: rest) (hi : t.session.bound = some i) {command : Word}
    {rt : Int} (hadm : responseTypeAdmitted rt = true) (hc : classifyFlags (t.periph i).sta rt = none)
    (hx : ((t.periph i).respcmdr &&& 0x3F) = command) : classify (frameOf g f cs) command rt t =
      (if rt = 1 then decodeStatus ((frameOf g f cs).call ⟨.classify, 11, 1⟩) (t.periph i).resp1
        else do
          (frameOf g f cs).pass .classify [(12, 0)]
          decodeR6 ((frameOf g f cs).call ⟨.classify, 12, 1⟩) (t.periph i).resp1 : Act Err)
        ((t.setSched rest).moved g (cs ++ [⟨.classify, 11, 0⟩])) := by
  rw [classify, run_bind_ok (regRead_quiet (by rw [hs]; rfl) hi (by decide)), run_pass_bind, State.moved_moved]
  rw [show (t.periph i).value .sta = (t.periph i).sta from rfl, hc]
  simp only [hadm, Bool.not_true, refuseIf_false]
  rw [run_bind_ok (run_pure () _), run_bind_ok (regRead_quiet (i := i) (r := .respcmdr) (by simp [hs]) (by simpa using hi) (by decide))]
  rw [if_pos (by simpa [Periph.value] using hx)]
  rw [run_bind_ok (regRead_quiet (i := i) (r := .resp1) (by simp [hs]) (by simpa using hi) (by decide))]
  simp [hs, Periph.value]

/-- The classification of a response that the flags alone decide (types 0, 2, 3, a timeout, a CRC failure). -/
theorem classify_flags (hq : t.sched.headD [] = []) (hi : t.session.bound = some i) {command : Word} {rt : Int} {e : Err}
    (hc : classifyFlags (t.periph i).sta rt = some e) :
    classify (frameOf g f cs) command rt t = .ok e ((t.setSched t.sched.tail).moved g
        (cs ++ [⟨.classify, ((classifyPoints (t.periph i).sta rt).getLastD (2, 0)).1,
          ((classifyPoints (t.periph i).sta rt).getLastD (2, 0)).2⟩])) := by
  rw [classify, run_bind_ok (regRead_quiet hq hi (by decide)), run_pass_bind, State.moved_moved]
  rw [show (t.periph i).value .sta = (t.periph i).sta from rfl, hc]
  rfl

/-! ### The end of a command -/

/-- The frame of the classification in a command. -/
abbrev inClassify (cs : List Point) : List Point := cs ++ [⟨.transmitCommand, 12, 1⟩]

/-- Where the agent stands when a command has found its wait ended by a flag. -/
abbrev atHit (cs : List Point) : List Point := cs ++ [⟨.transmitCommand, 12, 0⟩]

/-- A wait that saw a flag is followed by the classification. -/
theorem commandResult_hit (command : Word) (rt : Int) (s : State) :
    commandResult (frameOf g f cs) true command rt s = classify (frameOf g f (inClassify cs)) command rt (s.moved g (atHit cs)) := rfl

/-- The last steps of a command after a result `e`, at a quiet boundary. -/
theorem closeCommand_quiet {op : Act Err} {s t : State} {e : Err} (h : op s = .ok e t) (hq : t.sched.headD [] = [])
    (hi : t.session.bound = some i) (clear : Word) : closeCommand (frameOf g f cs) clear op s =
      .ok e ((((t.setSched t.sched.tail).setPeriph i ((t.periph i).write .icr clear)).setAppCmd (t.appCmd && e = .ok)).moved g (atEnd cs)) := by
  rw [closeCommand, run_bind_ok h, run_bind_ok (regWrite_quiet hq hi _ _), run_update_bind, run_pass_bind]
  simp

/-- The steps after the wait when the schedule is used up. -/
theorem afterWait_still (hs : t.sched = []) (hi : t.session.bound = some i) (clear : Word) {command : Word} {rt : Int} {e : Err}
    (he : classified command rt (t.periph i).sta (t.periph i).respcmdr (t.periph i).resp1 = some e) :
    afterWait (frameOf g f cs) clear command rt t =
      .ok e ((((t.setSession (latched command rt (t.periph i).sta (t.periph i).respcmdr (t.periph i).resp1 t.session)).setPeriph i
        ((t.periph i).write .icr clear)).setAppCmd (t.appCmd && e = .ok)).moved g (atEnd cs)) := by
  obtain ⟨path, hn⟩ := classify_still (g := g) (f := f) (cs := inClassify cs) (t := t.moved g (atHit cs)) (by simpa using hs) (by simpa using hi)
    (by simpa using he)
  rw [← commandResult_hit] at hn
  have hb : (latched command rt (t.periph i).sta (t.periph i).respcmdr (t.periph i).resp1 t.session).bound = some i := by
    unfold latched
    split <;> exact hi
  rw [afterWait, closeCommand_quiet (i := i) hn (by simp [hs]) (by simpa using hb)]
  simp [hs, setSched_self]

/-- The steps after the wait when the flags decide, at quiet boundaries. -/
theorem afterWait_flags {rest : List (List Move)} (hs : t.sched = [] :: [] :: rest) (hi : t.session.bound = some i) (clear : Word)
    {command : Word} {rt : Int} {e : Err} (hc : classifyFlags (t.periph i).sta rt = some e) : afterWait (frameOf g f cs) clear command rt t =
      .ok e ((((t.setSched rest).setPeriph i ((t.periph i).write .icr clear)).setAppCmd (t.appCmd && e = .ok)).moved g (atEnd cs)) := by
  rw [afterWait, closeCommand_quiet (i := i) ((commandResult_hit _ _ _).trans (classify_flags (cs := inClassify cs) (t := t.moved g (atHit cs))
    (by simp [hs]) (by simpa using hi) (by simpa using hc))) (by simp [hs]) (by simpa using hi)]
  simp [hs]

/-- The steps after the wait of a type 1 command whose index is echoed, at quiet boundaries. -/
theorem afterWait_r1 {rest : List (List Move)} (hs : t.sched = [] :: [] :: [] :: [] :: rest) (hi : t.session.bound = some i) (clear : Word)
    {command : Word} (hc : classifyFlags (t.periph i).sta 1 = none) (hx : ((t.periph i).respcmdr &&& 0x3F) = command) :
    afterWait (frameOf g f cs) clear command 1 t = .ok (decodeCardStatus (t.periph i).resp1) ((((t.setSched rest).setPeriph i
      ((t.periph i).write .icr clear)).setAppCmd (t.appCmd && decodeCardStatus (t.periph i).resp1 = .ok)).moved g (atEnd cs)) := by
  have hcl : commandResult (frameOf g f cs) true command 1 t = .ok (decodeCardStatus (t.periph i).resp1)
      ((t.setSched ([] :: rest)).moved g (inClassify cs ++ [⟨.classify, 11, 1⟩] ++
        [⟨.decodeCardStatus, ((cardStatusPoints (t.periph i).resp1).getLastD (1, 0)).1,
          ((cardStatusPoints (t.periph i).resp1).getLastD (1, 0)).2⟩])) := by
    rw [commandResult_hit, classify_echoed (i := i) (t := t.moved g (atHit cs)) (rest := [] :: rest) (by simpa using hs) (by simpa using hi) (by decide)
      (by simpa using hc) (by simpa using hx), if_pos rfl, decodeStatus, run_pass_bind]
    simp
  rw [afterWait, closeCommand_quiet (i := i) hcl (by simp) (by simpa using hi)]
  simp

/-- The steps after the wait of a type 6 command whose index is echoed and whose error bits are 0: the RCA is latched. -/
theorem afterWait_r6 {rest : List (List Move)} (hs : t.sched = [] :: [] :: [] :: [] :: rest) (hi : t.session.bound = some i) (clear : Word)
    {command : Word} (hc : classifyFlags (t.periph i).sta 6 = none) (hx : ((t.periph i).respcmdr &&& 0x3F) = command)
    (hz : ((t.periph i).resp1 &&& r6ErrorBits) = 0) : afterWait (frameOf g f cs) clear command 6 t = .ok .ok (((((t.setSched rest).setPeriph i
      ((t.periph i).write .icr clear)).setSession { t.session with rca := some ((t.periph i).resp1.extractLsb' 16 16) }).setAppCmd
        t.appCmd).moved g (atEnd cs)) := by
  have hcl : commandResult (frameOf g f cs) true command 6 t = .ok .ok
      (((t.setSched ([] :: rest)).setSession { t.session with rca := some ((t.periph i).resp1.extractLsb' 16 16) }).moved g
        (inClassify cs ++ [⟨.classify, 12, 1⟩, ⟨.decodeR6, 3, 0⟩])) := by
    rw [commandResult_hit, classify_echoed (i := i) (t := t.moved g (atHit cs)) (rest := [] :: rest) (by simpa using hs) (by simpa using hi) (by decide)
      (by simpa using hc) (by simpa using hx), if_neg (by decide), run_pass_bind, decodeR6, run_pass_bind, if_pos (by simpa using hz),
      run_sessionWrite_bind, run_pass_bind]
    simp
  rw [afterWait, closeCommand_quiet (i := i) hcl (by simp) (by simpa using hi)]
  simp
  cases i <;> rfl

/-! ### Whole commands -/

/-- The final clear of an answered controller. -/
theorem write_icr_answered (p : Periph) (cs : ClearSet) (m flags : Word) (hm : m &&& ~~~clearSetMask cs = 0)
    (hp : p.icr = clearSetMask cs) (sta : Word) (hsta : p.sta = sta &&& ~~~clearSetMask cs) :
    ({ p with sta := p.sta ||| (flags &&& m) } : Periph).write .icr (clearSetMask cs) = p := by
  have h : clearedBy (p.sta ||| (flags &&& m)) (clearSetMask cs) = p.sta := by
    rw [clearedBy_clearSet, hsta]; exact commandFlags_cleared _ _ _ _ hm
  show { p with icr := clearSetMask cs, sta := clearedBy (p.sta ||| (flags &&& m)) (clearSetMask cs) } = p
  rw [h, ← hp]

theorem respWait_cleared (cs : ClearSet) : respWait &&& ~~~clearSetMask cs = 0 := by cases cs <;> decide
theorem cmdsent_cleared (cs : ClearSet) : cmdsent &&& ~~~clearSetMask cs = 0 := by cases cs <;> decide

/-- The controller when a short response has come, before its classification. -/
def Periph.responded (p : Periph) (clear command argument : Word) (rt : Int) (index response flags : Word) : Periph :=
  { p.answeredShort clear command argument rt index response with
    sta := (p.sta &&& ~~~clear) ||| (flags &&& respWait) }

@[simp] theorem Periph.responded_resp1 (p : Periph) (clear command argument : Word) (rt : Int) (index response flags : Word) :
    (p.responded clear command argument rt index response flags).resp1 = response := rfl

theorem responded_clear (p : Periph) (cs : ClearSet) (command argument : Word) (rt : Int) (index response flags : Word) :
    (p.responded (clearSetMask cs) command argument rt index response flags).write .icr (clearSetMask cs) =
      p.answeredShort (clearSetMask cs) command argument rt index response :=
  write_icr_answered (p.answeredShort (clearSetMask cs) command argument rt index response) cs respWait flags (respWait_cleared cs) rfl p.sta rfl

theorem waitSet_pos {rt : Int} (hrt : 0 < rt) : waitSet rt = respWait := by
  rw [waitSet, if_neg (by omega)]

theorem waitResp_ne {rt : Int} (h0 : rt ≠ 0) : waitResp rt ≠ 0 := by
  unfold waitResp
  rw [if_neg h0]
  split
  · decide
  · split <;> decide

theorem waitResp_short {rt : Int} (hadm : responseTypeAdmitted rt = true) (h2 : rt ≠ 2) : waitResp rt ≠ 3 := by
  simp only [responseTypeAdmitted, decide_eq_true_eq] at hadm
  rcases hadm with h | h | h | h | h
  · rw [h]; decide
  · rw [h]; decide
  · exact absurd h h2
  · rw [h]; decide
  · rw [h]; decide

/-- A command with a short response, answered at poll `k + 1` with `flags`, up to its classification. -/
theorem transmit_short {rest : List (List Move)} {k : Nat} (hi : s.session.bound = some i) {c : Word} (hc : c.toNat < 64) (a : Word) {rt : Int}
    (hadm : responseTypeAdmitted rt = true) (hrt : 0 < rt) (h2 : rt ≠ 2) (hk : k ≤ s.cfg.cmdBudgetLess1) {index response flags : Word}
    (hs : s.sched = quiet (4 + k) ++ shortAnswer i index response flags :: rest) (hf : hasFlag flags respWait = true) :
    transmitAdmitted (frameOf g f cs) c a rt s = afterWait (frameOf g f cs) s.clearMask c rt
      ((((s.setSched rest).setPeriph i ((s.periph i).responded s.clearMask c a rt index response flags)).setAppCmd (c = 55)).moved g (atPoll cs)) := by
  refine transmit_answered hi hc a rt hk hs (by simp [shortAnswer, Move.fromEnv]) ?_ (by simpa using hi) ?_
  · rw [envMoves_short]
    · rw [State.periph_setPeriph, State.setPeriph_setPeriph]
      rfl
    · rw [State.periph_setPeriph]
      exact commandWord_cpsmen _ _ _
    · rw [State.periph_setPeriph]
      rfl
    · rw [State.periph_setPeriph]
      show noResponse (commandWord _ c rt) = false
      rw [commandWord_noResponse _ hc]
      simpa using waitResp_ne (show rt ≠ 0 by omega)
    · rw [State.periph_setPeriph]
      show longResponse (commandWord _ c rt) = false
      rw [commandWord_longResponse _ hc]
      simpa using waitResp_short hadm h2
    · exact hf
  · rw [State.periph_setPeriph, waitSet_pos hrt]
    simp only [Periph.responded, hasFlag, bne_iff_ne] at hf ⊢
    intro h
    apply hf
    have h' := congrArg (· &&& respWait) h
    simp only [BitVec.and_or_distrib_right, BitVec.and_assoc, BitVec.and_self] at h
    have hx : ∀ a b : Word, a ||| b = 0#32 → b = 0#32 := by
      intro a b hab
      apply BitVec.eq_of_getLsbD_eq
      intro n hn
      have := congrArg (fun v : Word => v.getLsbD n) hab
      simp at this
      simp [this.2]
    exact hx _ _ h

/-- The flags the classifier reads are those of the answer: every other command flag was cleared. -/
theorem hasFlag_of_answer (sta m flags x : Word) (cs : ClearSet) (hm : ~~~clearSetMask cs &&& m = 0) :
    hasFlag (sta &&& ~~~clearSetMask cs ||| (flags &&& x)) m = hasFlag (flags &&& x) m := by
  simp only [hasFlag, BitVec.and_or_distrib_right, BitVec.and_assoc, hm]
  simp

theorem classifyFlags_of_answer (sta flags x : Word) (cs : ClearSet) (rt : Int) :
    classifyFlags (sta &&& ~~~clearSetMask cs ||| (flags &&& x)) rt = classifyFlags (flags &&& x) rt := by
  have h1 : ~~~clearSetMask cs &&& ctimeout = 0 := by cases cs <;> decide
  have h2 : ~~~clearSetMask cs &&& ccrcfail = 0 := by cases cs <;> decide
  simp only [classifyFlags, hasFlag_of_answer _ _ _ _ _ h1, hasFlag_of_answer _ _ _ _ _ h2]

/-- A type 1 command whose index is echoed without a flag of failure, over its script: the result is the decoded card status. -/
theorem transmit_r1 {rest : List (List Move)} (hi : s.session.bound = some i) {c : Word} (hc : c.toNat < 64) (a : Word)
    {index response : Word} (hs : s.sched = shortScript i index response ++ rest) (hx : (index &&& 0x3F) = c) :
    transmitCommand (frameOf g f cs) c a 1 s = .ok (decodeCardStatus response) ((((s.setSched rest).setPeriph i
      ((s.periph i).answeredShort s.clearMask c a 1 index response)).setAppCmd (c = 55 && decodeCardStatus response = .ok)).moved g (atEnd cs)) := by
  have hs' : s.sched = quiet (4 + 0) ++ shortAnswer i index response cmdrend :: ([] :: [] :: [] :: [] :: rest) := hs
  rw [transmitCommand, if_pos (by decide)]
  rw [transmit_short (f := f) hi hc a (by decide) (by decide) (by decide) (Nat.zero_le _) hs' (by decide)]
  have hsta : classifyFlags (((s.periph i).responded s.clearMask c a 1 index response cmdrend).sta) 1 = none := by
    show classifyFlags (((s.periph i).sta &&& ~~~clearSetMask s.cfg.clearSet) ||| (cmdrend &&& respWait)) 1 = none
    rw [classifyFlags_of_answer]
    decide
  rw [afterWait_r1 (i := i) (rest := rest) (by simp) (by simpa using hi) s.clearMask (by simpa using hsta)
    (by simpa [Periph.responded, Periph.answeredShort] using hx)]
  simp [State.clearMask, responded_clear, State.setPeriph_setSched]

/-- A type 6 command whose index is echoed and whose error bits are 0, over its script: the RCA is latched (40 R184). -/
theorem transmit_r6 {rest : List (List Move)} (hi : s.session.bound = some i) {c : Word} (hc : c.toNat < 64) (a : Word)
    {index response : Word} (hs : s.sched = shortScript i index response ++ rest) (hx : (index &&& 0x3F) = c)
    (hz : (response &&& r6ErrorBits) = 0) : transmitCommand (frameOf g f cs) c a 6 s =
      .ok .ok (((((s.setSched rest).setPeriph i ((s.periph i).answeredShort s.clearMask c a 6 index response)).setSession
        { s.session with rca := some (response.extractLsb' 16 16) }).setAppCmd (c = 55)).moved g (atEnd cs)) := by
  have hs' : s.sched = quiet (4 + 0) ++ shortAnswer i index response cmdrend :: ([] :: [] :: [] :: [] :: rest) := hs
  rw [transmitCommand, if_pos (by decide)]
  rw [transmit_short (f := f) hi hc a (by decide) (by decide) (by decide) (Nat.zero_le _) hs' (by decide)]
  have hsta : classifyFlags (((s.periph i).responded s.clearMask c a 6 index response cmdrend).sta) 6 = none := by
    show classifyFlags (((s.periph i).sta &&& ~~~clearSetMask s.cfg.clearSet) ||| (cmdrend &&& respWait)) 6 = none
    rw [classifyFlags_of_answer]
    decide
  rw [afterWait_r6 (i := i) (rest := rest) (by simp) (by simpa using hi) s.clearMask (by simpa using hsta)
    (by simpa [Periph.responded, Periph.answeredShort] using hx) (by simpa [Periph.responded, Periph.answeredShort] using hz)]
  simp [State.clearMask, responded_clear, State.setPeriph_setSched]

/-- A command with a short response that the flags classify, answered at poll `k + 1` (type 3, a timeout, a CRC failure). -/
theorem transmit_flagged {rest : List (List Move)} {k : Nat} (hi : s.session.bound = some i) {c : Word} (hc : c.toNat < 64) (a : Word) {rt : Int}
    (hadm : responseTypeAdmitted rt = true) (hrt : 0 < rt) (h2 : rt ≠ 2) (hk : k ≤ s.cfg.cmdBudgetLess1) {index response flags : Word}
    (hs : s.sched = quiet (4 + k) ++ shortAnswer i index response flags :: [] :: [] :: rest) (hf : hasFlag flags respWait = true) {e : Err}
    (he : classifyFlags (flags &&& respWait) rt = some e) : transmitCommand (frameOf g f cs) c a rt s =
      .ok e ((((s.setSched rest).setPeriph i ((s.periph i).answeredShort s.clearMask c a rt index response)).setAppCmd
        (c = 55 && e = .ok)).moved g (atEnd cs)) := by
  rw [transmitCommand, if_pos hadm]
  rw [transmit_short (f := f) hi hc a hadm hrt h2 hk hs hf]
  have hsta : classifyFlags (((s.periph i).responded s.clearMask c a rt index response flags).sta) rt = some e := by
    show classifyFlags (((s.periph i).sta &&& ~~~clearSetMask s.cfg.clearSet) ||| (flags &&& respWait)) rt = some e
    rw [classifyFlags_of_answer]
    exact he
  rw [afterWait_flags (i := i) (rest := rest) (by simp) (by simpa using hi) s.clearMask (by simpa using hsta)]
  simp [State.clearMask, responded_clear, State.setPeriph_setSched]

/-- A type 3 command over its script. -/
theorem transmit_r3 {rest : List (List Move)} (hi : s.session.bound = some i) {c : Word} (hc : c.toNat < 64) (a : Word)
    {response : Word} (hs : s.sched = probeScript i response ++ rest) : transmitCommand (frameOf g f cs) c a 3 s =
      .ok .ok ((((s.setSched rest).setPeriph i ((s.periph i).answeredShort s.clearMask c a 3 63 response)).setAppCmd (c = 55)).moved g (atEnd cs)) := by
  have hs' : s.sched = quiet (4 + 0) ++ shortAnswer i 63 response cmdrend :: [] :: [] :: rest := hs
  rw [transmit_flagged hi hc a (by decide) (by decide) (by decide) (Nat.zero_le _) hs' (by decide) (e := .ok) (by decide)]
  simp

/-- A type 2 command answered at poll `k + 1` with `flags` that the classifier decides. -/
theorem transmit_long {rest : List (List Move)} {k : Nat} (hi : s.session.bound = some i) {c : Word} (hc : c.toNat < 64) (a : Word)
    (hk : k ≤ s.cfg.cmdBudgetLess1) {x : Reg128} {flags : Word} (hs : s.sched = quiet (4 + k) ++ longAnswer i x flags :: [] :: [] :: rest)
    (hf : hasFlag flags respWait = true) {e : Err} (he : classifyFlags (flags &&& respWait) 2 = some e) :
    transmitCommand (frameOf g f cs) c a 2 s =
      .ok e ((((s.setSched rest).setPeriph i ((s.periph i).answeredLong s.clearMask c a 2 x)).setAppCmd (c = 55 && e = .ok)).moved g (atEnd cs)) := by
  let q : Periph := (s.periph i).answeredLong s.clearMask c a 2 x
  have hq : envMoves (longAnswer i x flags) ((s.setSched ([] :: [] :: rest)).setPeriph i ((s.periph i).commanded s.clearMask c a 2)) =
      (s.setSched ([] :: [] :: rest)).setPeriph i { q with sta := q.sta ||| (flags &&& respWait) } := by
    rw [envMoves_long]
    · rw [State.periph_setPeriph, State.setPeriph_setPeriph]
      rfl
    · rw [State.periph_setPeriph]
      exact commandWord_cpsmen _ _ _
    · rw [State.periph_setPeriph]
      rfl
    · rw [State.periph_setPeriph]
      show noResponse (commandWord _ c 2) = false
      rw [commandWord_noResponse _ hc]
      decide
    · rw [State.periph_setPeriph]
      show longResponse (commandWord _ c 2) = true
      rw [commandWord_longResponse _ hc]
      decide
    · exact hf
  rw [transmitCommand, if_pos (by decide)]
  rw [transmit_answered (f := f) hi hc a 2 hk hs (by simp [longAnswer, Move.fromEnv]) hq (by simpa using hi) ?_]
  · have hsta : classifyFlags (q.sta ||| (flags &&& respWait)) 2 = some e := by
      show classifyFlags (((s.periph i).sta &&& ~~~clearSetMask s.cfg.clearSet) ||| (flags &&& respWait)) 2 = some e
      rw [classifyFlags_of_answer]
      exact he
    rw [afterWait_flags (i := i) (rest := rest) (by simp) (by simpa using hi) s.clearMask (by simpa using hsta)]
    have hw := write_icr_answered q s.cfg.clearSet respWait flags (respWait_cleared _) rfl (s.periph i).sta rfl
    simp [State.clearMask, hw, State.setPeriph_setSched]
    rfl
  · rw [State.periph_setPeriph]
    show hasFlag (((s.periph i).sta &&& ~~~clearSetMask s.cfg.clearSet) ||| (flags &&& respWait)) respWait = true
    rw [hasFlag_of_answer _ _ _ _ _ (by cases s.cfg.clearSet <;> decide)]
    simpa [hasFlag, BitVec.and_assoc] using hf

/-- A type 2 command over its script, before its four reads. -/
theorem transmit_r2 {rest : List (List Move)} (hi : s.session.bound = some i) {c : Word} (hc : c.toNat < 64) (a : Word) {x : Reg128}
    (hs : s.sched = captureScript i x ++ rest) : transmitCommand (frameOf g f cs) c a 2 s =
      .ok .ok ((((s.setSched (quiet 4 ++ rest)).setPeriph i ((s.periph i).answeredLong s.clearMask c a 2 x)).setAppCmd (c = 55)).moved g (atEnd cs)) := by
  have hs' : s.sched = quiet (4 + 0) ++ longAnswer i x cmdrend :: [] :: [] :: (quiet 4 ++ rest) := hs
  rw [transmit_long hi hc a (Nat.zero_le _) hs' (by decide) (e := .ok) (by decide)]
  simp

/-- A type 0 command that is sent at poll `k + 1`. -/
theorem transmit_sent {rest : List (List Move)} {k : Nat} (hi : s.session.bound = some i) {c : Word} (hc : c.toNat < 64) (a : Word)
    (hk : k ≤ s.cfg.cmdBudgetLess1) (hs : s.sched = quiet (4 + k) ++ [.cmdFlags i cmdsent, .cmdEnd i] :: [] :: [] :: rest) :
    transmitCommand (frameOf g f cs) c a 0 s =
      .ok .ok ((((s.setSched rest).setPeriph i ((s.periph i).commanded s.clearMask c a 0).ended).setAppCmd (c = 55)).moved g (atEnd cs)) := by
  let q : Periph := ((s.periph i).commanded s.clearMask c a 0).ended
  have hq : envMoves [.cmdFlags i cmdsent, .cmdEnd i]
      ((s.setSched ([] :: [] :: rest)).setPeriph i ((s.periph i).commanded s.clearMask c a 0)) =
      (s.setSched ([] :: [] :: rest)).setPeriph i { q with sta := q.sta ||| cmdsent } := by
    rw [envMoves_sent]
    · rw [State.periph_setPeriph, State.setPeriph_setPeriph]
      rfl
    · rw [State.periph_setPeriph]
      exact commandWord_cpsmen _ _ _
    · rw [State.periph_setPeriph]
      show noResponse (commandWord _ c 0) = true
      rw [commandWord_noResponse _ hc]
      decide
  rw [transmitCommand, if_pos (by decide)]
  rw [transmit_answered (f := f) hi hc a 0 hk hs (by simp [Move.fromEnv]) hq (by simpa using hi) ?_]
  · have hsta : classifyFlags (q.sta ||| (cmdsent &&& cmdsent)) 0 = some .ok := by
      show classifyFlags (((s.periph i).sta &&& ~~~clearSetMask s.cfg.clearSet) ||| (cmdsent &&& cmdsent)) 0 = some .ok
      rw [classifyFlags_of_answer]
      decide
    rw [BitVec.and_self] at hsta
    rw [afterWait_flags (i := i) (rest := rest) (by simp) (by simpa using hi) s.clearMask (by simpa using hsta)]
    have hw := write_icr_answered q s.cfg.clearSet cmdsent cmdsent (cmdsent_cleared _) rfl (s.periph i).sta rfl
    rw [BitVec.and_self] at hw
    simp [State.clearMask, hw, State.setPeriph_setSched]
    rfl
  · rw [State.periph_setPeriph]
    show hasFlag (((s.periph i).sta &&& ~~~clearSetMask s.cfg.clearSet) ||| cmdsent) cmdsent = true
    have := hasFlag_of_answer (s.periph i).sta cmdsent cmdsent cmdsent s.cfg.clearSet (by cases s.cfg.clearSet <;> decide)
    rw [BitVec.and_self] at this
    rw [this]
    decide

/-- A command that the card does not answer: the budget runs out (40 R166). -/
theorem transmit_silent (hi : s.session.bound = some i) {c : Word} (hc : c.toNat < 64) (a : Word) {rt : Int}
    (hadm : responseTypeAdmitted rt = true) (hs : s.sched = []) : transmitCommand (frameOf g f cs) c a rt s =
      .ok .timeout (((s.setPeriph i ((s.periph i).commanded s.clearMask c a rt)).setAppCmd false).moved g (atEnd cs)) := by
  have hmiss : hasFlag ((s.periph i).commanded (clearSetMask s.cfg.clearSet) c a rt).sta (waitSet rt) = false := waitSet_cleared _ _ _
  have hf : ((s.periph i).commanded (clearSetMask s.cfg.clearSet) c a rt).write .icr (clearSetMask s.cfg.clearSet) =
      (s.periph i).commanded (clearSetMask s.cfg.clearSet) c a rt := by
    have := write_icr_answered ((s.periph i).commanded (clearSetMask s.cfg.clearSet) c a rt) s.cfg.clearSet 0 0 (by simp) rfl
      (s.periph i).sta rfl
    simpa using this
  rw [transmitCommand, if_pos hadm, transmit_start hi hc a rt (by simp [hs])]
  rw [run_bind_ok (pollStatus_silent (i := i) (waitSet rt) s.cfg.cmdBudget (by simpa using hi) (by simpa [State.clearMask] using hmiss)
    (by simp [hs]))]
  rw [closeCommand_quiet (i := i) (show commandResult (frameOf g f cs) false c rt _ = .ok .timeout _ by
    rw [commandResult, run_pass_bind, if_neg (by decide), run_pass_bind]; rfl) (by simp [hs]) (by simpa using hi)]
  simp [hs, setSched_self, hf, State.clearMask]

end Sys2Proof.Machine
end

