-- ==== Sys2Proof/Laws/Env.lean ====
section
/-! SUPPORT. Laws/Env.lean: what the moves of ENV leave unchanged (10 R61, R62, R67): all but the controllers, memory, the pin, whether a `Delay` waits,
the bytes sent and the counter of draws. -/

namespace Sys2Proof.Machine

/-- `t` differs from `s` at most in what `ENV` may change. -/
def SameButEnv (s t : State) : Prop :=
  ∃ p1 p2 m pin delay sent n, t = { s with sdmmc1 := p1, sdmmc2 := p2, mem := m, pin := pin, delayRuns := delay, sent := sent, draws := n }

theorem SameButEnv.refl (s : State) : SameButEnv s s := ⟨s.sdmmc1, s.sdmmc2, s.mem, s.pin, s.delayRuns, s.sent, s.draws, rfl⟩

theorem SameButEnv.trans {s t u : State} (h1 : SameButEnv s t) (h2 : SameButEnv t u) : SameButEnv s u := by
  obtain ⟨_, _, _, _, _, _, _, rfl⟩ := h1
  obtain ⟨p1, p2, m, pin, delay, sent, n, rfl⟩ := h2
  exact ⟨p1, p2, m, pin, delay, sent, n, rfl⟩

theorem SameButEnv.setPeriph (s : State) (i : Sdmmc) (p : Periph) : SameButEnv s (s.setPeriph i p) := by
  cases i
  · exact ⟨p, s.sdmmc2, s.mem, s.pin, s.delayRuns, s.sent, s.draws, rfl⟩
  · exact ⟨s.sdmmc1, p, s.mem, s.pin, s.delayRuns, s.sent, s.draws, rfl⟩

theorem SameButEnv.setMem (s : State) (m : List Host.Cell) : SameButEnv s (s.setMem m) :=
  ⟨s.sdmmc1, s.sdmmc2, m, s.pin, s.delayRuns, s.sent, s.draws, rfl⟩

theorem dmaStore_same (i : Sdmmc) (bytes : List Byte) (s : State) : SameButEnv s (dmaStore i bytes s) := by
  induction bytes generalizing s with
  | nil => exact .refl s
  | cons c cs ih =>
    simp only [dmaStore]
    split
    · exact ((SameButEnv.setMem s _).trans (.setPeriph _ i _)).trans (ih _)
    · exact .refl s

theorem byteForCard_same (s : State) (a : Nat) : SameButEnv s (byteForCard s a).2 := by
  simp only [byteForCard]
  split
  · exact ⟨s.sdmmc1, s.sdmmc2, s.mem, s.pin, s.delayRuns, s.sent, s.draws + 1, rfl⟩
  · exact .refl s

theorem SameButEnv.sendTo (s : State) (x : List SentByte) : SameButEnv s { s with sent := x } :=
  ⟨s.sdmmc1, s.sdmmc2, s.mem, s.pin, s.delayRuns, x, s.draws, rfl⟩

theorem dmaSend_same (i : Sdmmc) (n : Nat) (s : State) : SameButEnv s (dmaSend i n s) := by
  induction n generalizing s with
  | zero => exact .refl s
  | succ n ih =>
    simp only [dmaSend]
    split
    · refine (((byteForCard_same s _).trans (.sendTo _ _)).trans (.setPeriph _ i _)).trans (ih _)
    · exact .refl s

theorem applyEnv_same (m : Move) (s : State) : SameButEnv s (applyEnv m s) := by
  cases m with
  | cmdFlags i _ | dataFlags i _ | idmaError i | respond i _ _ | fifoPush i _ | dataRestart i =>
    simp only [applyEnv]; split
    · exact .setPeriph s i _
    · exact .refl s
  | cmdEnd i | dataPhaseEnd i | dtenClear i | dynFlags i _ | staleWidbus i _ | reservedBits i _ _ => exact .setPeriph s i _
  | dmaStore i bytes =>
    simp only [applyEnv]; split
    · exact dmaStore_same i bytes s
    · exact .refl s
  | dmaSend i n =>
    simp only [applyEnv]; split
    · exact dmaSend_same i n s
    · exact .refl s
  | fifoSend i =>
    simp only [applyEnv]; split
    · exact (SameButEnv.sendTo s _).trans (.setPeriph _ i _)
    · exact .refl s
  | pin level => exact ⟨s.sdmmc1, s.sdmmc2, s.mem, level, s.delayRuns, s.sent, s.draws, rfl⟩
  | delayRuns running => exact ⟨s.sdmmc1, s.sdmmc2, s.mem, s.pin, running, s.sent, s.draws, rfl⟩
  | irq _ => exact .refl s

@[simp] theorem applyEnv_cfg (m : Move) (s : State) : (applyEnv m s).cfg = s.cfg := by
  obtain ⟨_, _, _, _, _, _, _, h⟩ := applyEnv_same m s; rw [h]
@[simp] theorem applyEnv_session (m : Move) (s : State) : (applyEnv m s).session = s.session := by
  obtain ⟨_, _, _, _, _, _, _, h⟩ := applyEnv_same m s; rw [h]
@[simp] theorem applyEnv_xfer (m : Move) (s : State) : (applyEnv m s).xfer = s.xfer := by
  obtain ⟨_, _, _, _, _, _, _, h⟩ := applyEnv_same m s; rw [h]
@[simp] theorem applyEnv_hostStep (m : Move) (s : State) : (applyEnv m s).hostStep = s.hostStep := by
  obtain ⟨_, _, _, _, _, _, _, h⟩ := applyEnv_same m s; rw [h]
@[simp] theorem applyEnv_irqStep (m : Move) (s : State) : (applyEnv m s).irqStep = s.irqStep := by
  obtain ⟨_, _, _, _, _, _, _, h⟩ := applyEnv_same m s; rw [h]
@[simp] theorem applyEnv_sched (m : Move) (s : State) : (applyEnv m s).sched = s.sched := by
  obtain ⟨_, _, _, _, _, _, _, h⟩ := applyEnv_same m s; rw [h]
@[simp] theorem applyEnv_program (m : Move) (s : State) : (applyEnv m s).program = s.program := by
  obtain ⟨_, _, _, _, _, _, _, h⟩ := applyEnv_same m s; rw [h]
@[simp] theorem applyEnv_appCmd (m : Move) (s : State) : (applyEnv m s).appCmd = s.appCmd := by
  obtain ⟨_, _, _, _, _, _, _, h⟩ := applyEnv_same m s; rw [h]

/-- The state an agent has changed at most in its registers, as `ENV` may: the boundary of `IRQ`'s own steps. -/
theorem SameButEnv.fields {s t : State} (h : SameButEnv s t) :
    t.cfg = s.cfg ∧ t.session = s.session ∧ t.xfer = s.xfer ∧ t.hostStep = s.hostStep ∧ t.irqStep = s.irqStep ∧ t.sched = s.sched
      ∧ t.program = s.program ∧ t.appCmd = s.appCmd ∧ t.structs = s.structs ∧ t.ssr = s.ssr ∧ t.result = s.result ∧ t.windows = s.windows
      ∧ t.tainted = s.tainted ∧ t.stale = s.stale ∧ t.hostByte = s.hostByte := by
  obtain ⟨_, _, _, _, _, _, _, rfl⟩ := h
  exact ⟨rfl, rfl, rfl, rfl, rfl, rfl, rfl, rfl, rfl, rfl, rfl, rfl, rfl, rfl, rfl⟩

end Sys2Proof.Machine
end

