-- ==== Sys2Proof/Laws/Keeps.lean ====
section
/-! SUPPORT. Laws/Keeps.lean: what each shared operation keeps, once for every assertion: an assertion that the register accesses of an agent keep, with
the words they carry, is kept by every operation built of them. `g`, `bt` and `cs` are the frame of the pseudocode. -/

namespace Sys2Proof.Machine

variable {E : Stop → State → Prop} {I : State → Prop} {W : Reg → Word → Prop} {g : Agent} {bt : Act Unit} {cs : List Point} {pt : Point}

/-- The steps of an agent, whatever frame of it takes them: what happens at their boundaries keeps `I`, and so does the agent's position. -/
structure Steps (E : Stop → State → Prop) (I : State → Prop) (a : Agent) (m : Act Unit) : Prop where
  between : Spec E I m (fun _ => I)
  moved : ∀ s path, I s → I (s.moved a path)

theorem Steps.goto (hb : Steps E I g bt) (pt : Point) : Spec E I (Frame.goto ⟨g, bt, cs⟩ pt) (fun _ => I) := Spec.update (fun s hs => hb.moved s _ hs)

theorem Steps.pass (hb : Steps E I g bt) (proc : Proc) (lines : List (Nat × Nat)) : Spec E I (Frame.pass ⟨g, bt, cs⟩ proc lines) (fun _ => I) := by
  induction lines with
  | nil => exact Spec.pure (fun _ h => h)
  | cons line lines ih => exact (hb.goto _).seq (fun _ => ih)

/-- Statements that are no step, before the rest of an operation. -/
theorem Steps.passed {α : Type} (hb : Steps E I g bt) {proc : Proc} {lines : List (Nat × Nat)} {m : Unit → Act α} {Q : α → State → Prop}
    (hm : ∀ u, Spec E I (m u) Q) : Spec E I (Frame.pass ⟨g, bt, cs⟩ proc lines >>= m) Q := (hb.pass proc lines).seq hm

/-- Statements that are no step, the last of them a return. -/
theorem Steps.returned {α : Type} (hb : Steps E I g bt) {proc : Proc} {lines : List (Nat × Nat)} {a : α} :
    Spec E I (Frame.pass ⟨g, bt, cs⟩ proc lines >>= fun _ => Pure.pure a) (fun _ => I) := hb.passed (fun _ => Spec.pure (fun _ h => h))

theorem Steps.step (hb : Steps E I g bt) (pt : Point) : Spec E I (Frame.step ⟨g, bt, cs⟩ pt) (fun _ => I) := (hb.goto pt).seq (fun _ => hb.between)

/-- The assertion `I` is kept by register accesses that write only words in `W`, and the words read are in `W`. -/
structure Regs (E : Stop → State → Prop) (I : State → Prop) (W : Reg → Word → Prop) : Prop where
  unbound : ∀ s, I s → s.session.bound = none → E (.fault .unbound) s
  read : ∀ s i r, I s → s.session.bound = some i → I (s.setPeriph i ((s.periph i).afterRead r))
  value : ∀ s i r, I s → s.session.bound = some i → W r ((s.periph i).value r)
  free : ∀ v, W .fifo v
  write : ∀ s i r v, I s → s.session.bound = some i → W r v → I (s.setPeriph i ((s.periph i).write r v))
  draws : ∀ s n, I s → I (s.setDraws n)

/-- The words the transport writes are in `W`. -/
structure CommandWords (W : Reg → Word → Prop) : Prop where
  icr : ∀ v, W .icr v
  argr : ∀ v, W .argr v
  cmdr : ∀ v, W .cmdr v

/-- The words the other operations write are in `W`. -/
structure Words (W : Reg → Word → Prop) : Prop extends CommandWords W where
  dtimer : ∀ v, W .dtimer v
  dlen : ∀ v, W .dlen v
  idmactrl : ∀ v, W .idmactrl v
  idmabase0 : ∀ v, W .idmabase0 v
  dctrlZero : W .dctrl 0
  dctrlDma : ∀ d, W .dctrl (dmaControl d)
  dctrlScr : W .dctrl scrControl
  dctrlSsr : W .dctrl ssrControl
  maskSet : ∀ v d, W .mask v → W .mask (v ||| dirIrqs d)
  maskClr : ∀ v, W .mask v → W .mask (v &&& ~~~xferIrqs)
  powerSet : ∀ v m, W .power v → W .power (v ||| m)
  clkInit : ∀ d : BitVec 10, W .clkcr (d.setWidth 32)
  clkdiv : ∀ v d, clockDividerInRange d = true → W .clkcr v → W .clkcr (withClkdiv v d)
  widbus : ∀ v w, W .clkcr v → W .clkcr (withWidbus v (widbusCode w))

theorem regRead_spec (h : Regs E I W) (hb : Steps E I g bt) (r : Reg) : Spec E I (regRead ⟨g, bt, cs⟩ pt r) (fun v t => I t ∧ W r v) := by
  refine (hb.step pt).seq (fun _ => Spec.getState_bind (fun s hs => ?_))
  intro t ht
  subst ht
  show Ends E (fun v u => I u ∧ W r v) ((match boundRegister r t with
    | none => (raise .unbound : Act Word)
    | some (i, r) => do
      update (fun s => s.setPeriph i ((t.periph i).afterRead r))
      if r = Reg.fifo && (t.periph i).fifo.isEmpty then drawWord else pure ((t.periph i).value r)) t)
  cases hi : t.session.bound with
  | none => rw [boundRegister_none hi]; exact h.unbound t hs hi
  | some i =>
    rw [boundRegister_some hi]
    show Ends E _ ((if (r = Reg.fifo && (t.periph i).fifo.isEmpty) = true then drawWord else pure ((t.periph i).value r))
      (t.setPeriph i ((t.periph i).afterRead r)))
    by_cases hc : (r = Reg.fifo && (t.periph i).fifo.isEmpty) = true
    · rw [if_pos hc]
      simp only [Bool.and_eq_true, decide_eq_true_eq] at hc
      refine ⟨h.draws _ _ (h.read t i r hs hi), ?_⟩
      rw [hc.1]; exact h.free _
    · rw [if_neg hc]
      exact ⟨h.read t i r hs hi, h.value t i r hs hi⟩

theorem regRead_keeps (h : Regs E I W) (hb : Steps E I g bt) (r : Reg) : Spec E I (regRead ⟨g, bt, cs⟩ pt r) (fun _ => I) :=
  (regRead_spec h hb r).post (fun _ _ x => x.1)

theorem regWrite_keeps (h : Regs E I W) (hb : Steps E I g bt) {r : Reg} {v : Word} (hv : W r v) :
    Spec E I (regWrite ⟨g, bt, cs⟩ pt r v) (fun _ => I) := by
  refine (hb.step pt).seq (fun _ => Spec.getState_bind (fun s hs => ?_))
  intro t ht
  subst ht
  show Ends E (fun _ => I) ((match boundRegister r t with
    | none => (raise .unbound : Act Unit)
    | some (i, r) => update (fun s => s.setPeriph i ((s.periph i).write r v))) t)
  cases hi : t.session.bound with
  | none => rw [boundRegister_none hi]; exact h.unbound t hs hi
  | some i => rw [boundRegister_some hi]; exact h.write t i r v hs hi hv

theorem regSet_keeps (h : Regs E I W) (hb : Steps E I g bt) {proc : Proc} {line : Nat} {r : Reg} {m : Word} (hv : ∀ v, W r v → W r (v ||| m)) :
    Spec E I (regSet ⟨g, bt, cs⟩ proc line r m) (fun _ => I) :=
  (regRead_spec h hb r).bind (fun v => by
    intro s hs
    exact regWrite_keeps h hb (hv v hs.2) s hs.1)

theorem regClr_keeps (h : Regs E I W) (hb : Steps E I g bt) {proc : Proc} {line : Nat} {r : Reg} {m : Word} (hv : ∀ v, W r v → W r (v &&& ~~~m)) :
    Spec E I (regClr ⟨g, bt, cs⟩ proc line r m) (fun _ => I) :=
  (regRead_spec h hb r).bind (fun v => by
    intro s hs
    exact regWrite_keeps h hb (hv v hs.2) s hs.1)

theorem onlyIf_keeps {c : Bool} {m : Act Unit} (h : c = true → Spec E I m (fun _ => I)) : Spec E I (onlyIf c m) (fun _ => I) :=
  Spec.ite h (fun _ => Spec.pure (fun _ h => h))

theorem xferWrite_keeps (hb : Steps E I g bt) {f : Transfer → Transfer} (hf : ∀ s, I s → I (s.setXfer (f s.xfer))) :
    Spec E I (xferWrite ⟨g, bt, cs⟩ pt f) (fun _ => I) := (hb.step pt).seq (fun _ => Spec.update hf)

theorem xferRead_keeps {α : Type} (hb : Steps E I g bt) (f : Transfer → α) : Spec E I (xferRead ⟨g, bt, cs⟩ pt f) (fun _ => I) :=
  (hb.step pt).seq (fun _ => Spec.getState_seq (fun _ _ => Spec.pure (fun _ h => h)))

theorem refuseOutstanding_keeps (hb : Steps E I g bt) (href : ∀ r s, I s → E (.refused r) s) {proc : Proc} {line : Nat} :
    Spec E I (refuseOutstanding ⟨g, bt, cs⟩ proc line) (fun _ => I) :=
  (xferRead_keeps hb _).seq (fun _ => (xferRead_keeps hb _).seq (fun _ => Spec.refuseIf (fun _ s hs => href _ s hs) (fun _ _ hs => hs)))

theorem sessionWrite_keeps (hb : Steps E I g bt) {f : Session → Session} (hf : ∀ s, I s → I (s.setSession (f s.session))) :
    Spec E I (sessionWrite ⟨g, bt, cs⟩ pt f) (fun _ => I) := (hb.goto pt).seq (fun _ => Spec.update hf)

theorem readOr_keeps {α : Type} {f : State → Option α} (h : ∀ s, I s → f s = none → E (.fault .unwrittenSession) s) :
    Spec E I (readOr f) (fun _ => I) := Spec.readOr h (fun _ _ hs _ => hs)

theorem readRcaArg_keeps (h : ∀ s, I s → s.session.rca = none → E (.fault .unwrittenSession) s) : Spec E I readRcaArg (fun _ => I) :=
  (readOr_keeps h).seq (fun _ => Spec.pure (fun _ h => h))

theorem readCardType_keeps (h : ∀ s, I s → s.session.cardType = none → E (.fault .unwrittenSession) s) :
    Spec E I readCardType (fun _ => I) := readOr_keeps h

theorem drawWord_keeps (h : Regs E I W) : Spec E I drawWord (fun _ => I) := fun s hs => h.draws s _ hs
theorem drawBool_keeps (h : Regs E I W) : Spec E I drawBool (fun _ => I) := fun s hs => h.draws s _ hs

/-! ### The transport (40) -/

/-- Latching the RCA keeps `I`; needed where the response type may be 6 (40 R184). -/
def RcaFree (I : State → Prop) : Prop := ∀ s x, I s → I (s.setSession { s.session with rca := some x })

theorem decodeR6_keeps (hb : Steps E I g bt) (hr : RcaFree I) (r : Word) : Spec E I (decodeR6 ⟨g, bt, cs⟩ r) (fun _ => I) :=
  hb.passed (fun _ => Spec.ite (fun _ => (sessionWrite_keeps hb (fun s hs => hr s _ hs)).seq (fun _ => hb.returned)) (fun _ => hb.returned))

theorem decodeStatus_keeps (hb : Steps E I g bt) (r : Word) : Spec E I (decodeStatus ⟨g, bt, cs⟩ r) (fun _ => I) := hb.returned

theorem classify_keeps (h : Regs E I W) (hb : Steps E I g bt) (command : Word) {rt : Int} (hrt : rt = 6 → RcaFree I)
    (href : ∀ s, I s → responseTypeAdmitted rt = false → E (.refused .badResponseType) s) : Spec E I (classify ⟨g, bt, cs⟩ command rt) (fun _ => I) := by
  refine (regRead_keeps h hb .sta).seq (fun sta => hb.passed (fun _ => ?_))
  cases hf : classifyFlags sta rt with
  | some e => exact Spec.pure (fun _ h => h)
  | none =>
    refine Spec.bind (R := fun _ t => I t ∧ responseTypeAdmitted rt = true)
      (Spec.refuseIf (fun hc s hs => href s hs (by simpa using hc)) (fun hc s hs => ⟨hs, by simpa using hc⟩)) (fun _ => ?_)
    intro s hs
    obtain ⟨hs, hadm⟩ := hs
    refine (Spec.seq (regRead_keeps h hb .respcmdr) (fun rc => Spec.ite (fun _ => Spec.seq (regRead_keeps h hb .resp1) (fun r => hb.passed (fun _ => Spec.ite
      (fun _ => decodeStatus_keeps hb r) (fun h1 => hb.passed (fun _ => decodeR6_keeps hb (hrt ?_) r))))) (fun _ => hb.returned))) s hs
    simp only [classifyFlags] at hf
    simp only [responseTypeAdmitted, Bool.decide_or, Bool.or_eq_true, decide_eq_true_eq] at hadm
    rcases hadm with h0 | h0 | h0 | h0 | h0
    · subst h0; simp at hf
    · exact absurd h0 h1
    · subst h0
      exfalso
      revert hf
      simp
      repeat' split
      all_goals simp
    · subst h0; simp at hf
    · exact h0

theorem pollStatus_keeps (h : Regs E I W) (hb : Steps E I g bt) (wait : Word) (n : Nat) :
    Spec E I (pollStatus ⟨g, bt, cs⟩ wait n) (fun _ => I) := by
  induction n with
  | zero => exact hb.returned
  | succ n ih =>
    exact hb.passed (fun _ => (regRead_keeps h hb .sta).seq (fun sta => hb.passed (fun _ => Spec.ite (fun _ => hb.returned) (fun _ => ih))))

/-- The mark of an accepted CMD55 keeps `I`. -/
def AppCmdFree (I : State → Prop) : Prop := ∀ s c, I s → I (s.setAppCmd c)

theorem transmitCommand_keeps (h : Regs E I W) (hw : CommandWords W) (ha : AppCmdFree I) (hb : Steps E I g bt)
    (command argument : Word) {rt : Int} (hrt : rt = 6 → RcaFree I)
    (href : ∀ s, I s → responseTypeAdmitted rt = false → E (.refused .badResponseType) s) :
    Spec E I (transmitCommand ⟨g, bt, cs⟩ command argument rt) (fun _ => I) := by
  refine Spec.ite (fun hadm => ?_) (fun hn => Spec.refuse (fun s hs => href s hs (by simpa using hn)))
  refine hb.passed (fun _ => Spec.getState_seq (fun s _ => ?_))
  refine (regWrite_keeps h hb (hw.icr _)).seq (fun _ => ?_)
  refine (regWrite_keeps h hb (hw.argr _)).seq (fun _ => ?_)
  refine (regRead_keeps h hb .cmdr).seq (fun w => ?_)
  refine (regWrite_keeps h hb (hw.cmdr _)).seq (fun _ => ?_)
  refine Spec.bind (R := fun _ => I) (Spec.update (fun s hs => ha s _ hs)) (fun _ => hb.passed (fun _ => ?_))
  refine (pollStatus_keeps h hb _ _).seq (fun hit => ?_)
  refine Spec.seq (m := commandResult ⟨g, bt, cs⟩ hit command rt) (hb.passed (fun _ => Spec.ite (fun _ => classify_keeps h hb command hrt href)
    (fun _ => hb.returned))) (fun e => ?_)
  refine (regWrite_keeps h hb (hw.icr _)).seq (fun _ => ?_)
  exact Spec.bind (R := fun _ => I) (Spec.update (fun s hs => ha s _ hs)) (fun _ => hb.returned)

/-- The transport with a response type that is not 6 and is admitted. -/
theorem transmitCommand_keeps' (h : Regs E I W) (hw : CommandWords W) (ha : AppCmdFree I) (hb : Steps E I g bt)
    (command argument : Word) {rt : Int} (h6 : rt ≠ 6) (hrt : responseTypeAdmitted rt = true) :
    Spec E I (transmitCommand ⟨g, bt, cs⟩ command argument rt) (fun _ => I) :=
  transmitCommand_keeps h hw ha hb command argument (fun e => absurd e h6) (fun _ _ hf => by rw [hrt] at hf; cases hf)

/-! ### The handler and the boundaries (60) -/

/-- What the handler writes beside registers keeps `I`. -/
structure HandlerFree (E : Stop → State → Prop) (I : State → Prop) : Prop where
  appCmd : AppCmdFree I
  clear : ∀ s d, I s → I (s.setXfer (clearInProgress d s.xfer))
  complete : ∀ s, I s → I (s.setXfer { s.xfer with complete := true })
  error : ∀ s e, I s → I (s.setXfer { s.xfer with error := e })
  operation : ∀ s, I s → s.xfer.operation = none → E (.fault .unwrittenSession) s

theorem recordError_keeps (hf : HandlerFree E I) (hb : Steps E I g bt) (e : Err) : Spec E I (recordError ⟨g, bt, cs⟩ pt e) (fun _ => I) :=
  xferWrite_keeps hb (fun s hs => hf.error s e hs)

theorem readOperation_keeps (hf : HandlerFree E I) (hb : Steps E I g bt) : Spec E I (readOperation ⟨g, bt, cs⟩ pt) (fun _ => I) :=
  (hb.step pt).seq (fun _ => readOr_keeps hf.operation)

theorem transferEnd_keeps (h : Regs E I W) (hw : Words W) (hf : HandlerFree E I) (hb : Steps E I g bt) :
    Spec E I (transferEnd ⟨g, bt, cs⟩) (fun _ => I) := by
  refine (regClr_keeps h hb (fun v _ => hw.cmdr _)).seq (fun _ => ?_)
  refine (regWrite_keeps h hb (hw.idmactrl _)).seq (fun _ => ?_)
  refine (readOperation_keeps hf hb).seq (fun op => ?_)
  refine Spec.seq (onlyIf_keeps (fun _ => (transmitCommand_keeps' h hw.toCommandWords hf.appCmd hb 12 0 (by decide) (by decide)).seq
    (fun _ => Spec.pure (fun _ h => h)))) (fun _ => ?_)
  refine (readOperation_keeps hf hb).seq (fun op => ?_)
  refine (xferWrite_keeps hb (fun s hs => hf.clear s _ hs)).seq (fun _ => ?_)
  refine (xferWrite_keeps hb (fun s hs => hf.complete s hs)).seq (fun _ => ?_)
  exact recordError_keeps hf hb .ok

theorem handleEvent_keeps (h : Regs E I W) (hw : Words W) (hf : HandlerFree E I) (hb : Steps E I g bt) (sta : Word) :
    Spec E I (handleEvent ⟨g, bt, cs⟩ sta) (fun _ => I) := by
  refine hb.passed (fun _ => Spec.ite (fun _ => transferEnd_keeps h hw hf hb) (fun _ => hb.passed (fun _ => Spec.ite
    (fun _ => (regWrite_keeps h hb (hw.idmactrl _)).seq (fun _ => recordError_keeps hf hb _)) (fun _ => hb.passed (fun _ => ?_)))))
  cases handlerError sta with
  | some e => exact recordError_keeps hf hb e
  | none => exact Spec.pure (fun _ h => h)

theorem irqHandler_keeps (h : Regs E I W) (hw : Words W) (hf : HandlerFree E I) (hb : Steps E I .irq irqFrame.between) :
    Spec E I irqHandler (fun _ => I) :=
  (regRead_keeps h hb .sta).seq (fun sta => (regClr_keeps h hb hw.maskClr).seq (fun _ =>
    (handleEvent_keeps h hw hf hb sta).seq (fun _ => regWrite_keeps h hb (hw.icr _))))

/-- What happens between steps keeps `I`: popping the schedule, and a move of `ENV`. -/
structure EnvFree (I : State → Prop) : Prop where
  sched : ∀ s x, I s → I (s.setSched x)
  env : ∀ s m, I s → I (applyEnv m s)

theorem runMoves_keeps {onIrq : Sdmmc → Act Unit} (he : ∀ s m, I s → I (applyEnv m s)) (hi : ∀ i, Spec E I (onIrq i) (fun _ => I))
    (moves : List Move) : Spec E I (runMoves onIrq moves) (fun _ => I) := by
  induction moves with
  | nil => exact Spec.pure (fun _ h => h)
  | cons m rest ih =>
    cases m with
    | irq i => exact (hi i).seq (fun _ => ih)
    | _ => exact Spec.bind (R := fun _ => I) (Spec.update (fun s hs => he s _ hs)) (fun _ => ih)

theorem between_keeps {onIrq : Sdmmc → Act Unit} (he : EnvFree I) (hi : ∀ i, Spec E I (onIrq i) (fun _ => I)) :
    Spec E I (between onIrq) (fun _ => I) := by
  intro s hs
  simp only [between]
  cases s.sched with
  | nil => exact hs
  | cons slot rest => exact runMoves_keeps he.env hi slot _ (he.sched s rest hs)

/-- A change of the handler's position keeps `I`. -/
def IrqStepFree (I : State → Prop) : Prop := ∀ s x, I s → I (s.setIrqStep x)

/-- A change of the position of `HOST` keeps `I`. -/
def HostStepFree (I : State → Prop) : Prop := ∀ s x, I s → I (s.setHostStep x)

theorem irqSteps_keep (he : EnvFree I) (hs : IrqStepFree I) : Steps E I .irq irqFrame.between :=
  ⟨between_keeps he (fun _ => Spec.pure (fun _ h => h)), fun s _ h => hs s _ h⟩

theorem runHandler_keeps (h : Regs E I W) (hw : Words W) (hf : HandlerFree E I) (he : EnvFree I) (hs : IrqStepFree I)
    (href : ∀ s, I s → E (.refused .badCall) s) (i : Sdmmc) : Spec E I (runHandler irqHandler i) (fun _ => I) :=
  Spec.getState_seq (fun _ _ => Spec.ite
    (fun _ => Spec.bind (R := fun _ => I) (Spec.update (fun s x => hs s _ x)) (fun _ =>
      (irqHandler_keeps h hw hf (irqSteps_keep he hs)).seq (fun _ => Spec.update (fun s x => hs s _ x))))
    (fun _ => Spec.refuse href))

theorem takeIrq_keeps (h : Regs E I W) (hw : Words W) (hf : HandlerFree E I) (he : EnvFree I) (hs : IrqStepFree I)
    (href : ∀ s, I s → E (.refused .badCall) s) (i : Sdmmc) : Spec E I (takeIrq irqHandler i) (fun _ => I) :=
  Spec.getState_seq (fun _ _ => Spec.ite (fun _ => runHandler_keeps h hw hf he hs href i) (fun _ => Spec.pure (fun _ h => h)))

theorem hostSteps_keep (h : Regs E I W) (hw : Words W) (hf : HandlerFree E I) (he : EnvFree I) (hs : IrqStepFree I) (hh : HostStepFree I)
    (href : ∀ s, I s → E (.refused .badCall) s) : Steps E I .host hostFrame.between :=
  ⟨between_keeps he (takeIrq_keeps h hw hf he hs href), fun s _ h => hh s _ h⟩

/-- Without interrupt entries in the schedule, the boundaries of `HOST` only let `ENV` move. -/
theorem hostSteps_noInterrupt {J : State → Prop} (he : EnvFree J) (hh : HostStepFree J) :
    Steps (fun _ _ => False) (fun s => J s ∧ NoInterrupt s) .host hostFrame.between := by
  have moves : ∀ (slot : List Move), (∀ m ∈ slot, m.fromEnv = true) → ∀ s, J s → NoInterrupt s →
      Ends (fun _ _ => False) (fun _ t => J t ∧ NoInterrupt t) (runMoves (takeIrq irqHandler) slot s) := by
    intro slot
    induction slot with
    | nil => intro _ s hs hn; exact ⟨hs, hn⟩
    | cons m rest ih =>
      intro hm s hs hn
      have hrest := ih (fun x hx => hm x (List.mem_cons_of_mem _ hx))
      have hmv := hm m (List.mem_cons_self ..)
      have go : ∀ m, m.fromEnv = true → runMoves (takeIrq irqHandler) (m :: rest) s = runMoves (takeIrq irqHandler) rest (applyEnv m s) := by
        intro m hm
        cases m <;> first | rfl | cases hm
      rw [go m hmv]
      refine hrest _ (he.env s m hs) ?_
      unfold NoInterrupt
      rw [applyEnv_sched]
      exact hn
  refine ⟨?_, fun s path h => ⟨hh s _ h.1, h.2⟩⟩
  intro s hs
  show Ends _ _ (match s.sched with
    | [] => .ok () s
    | slot :: rest => runMoves (takeIrq irqHandler) slot (s.setSched rest))
  cases hc : s.sched with
  | nil => exact hs
  | cons slot rest =>
    have hn : NoInterrupt s := hs.2
    unfold NoInterrupt at hn
    rw [hc] at hn
    exact moves slot (fun m hm => hn slot (List.mem_cons_self ..) m hm) _ (he.sched s rest hs.1)
      (fun x hx m hm => hn x (List.mem_cons_of_mem _ hx) m hm)

end Sys2Proof.Machine
end

