-- ==== Sys2Proof/Laws/KeepsHost.lean ====
section
/-! SUPPORT. Laws/KeepsHost.lean: what the operations of HOST keep (41 to 44, 60 R366): each is built of the operations of Laws/Keeps.lean, so an assertion kept by
its register accesses and its writes of the session and the Transfer State is kept by the operation. -/

namespace Sys2Proof.Machine

variable {E : Stop → State → Prop} {I : State → Prop} {W : Reg → Word → Prop} {g : Agent} {bt : Act Unit} {cs : List Point} {pt : Point}

/-- Every stop is allowed: a fault, a refusal, a hold at a sound position. -/
structure Stops (E : Stop → State → Prop) (I : State → Prop) : Prop where
  fault : ∀ f s, I s → E (.fault f) s
  refused : ∀ r s, I s → E (.refused r) s
  hold : ∀ h s, h.sound = true → I s → E (.hold h) s

/-- A write of the session keeps `I`. -/
def SessionFree (I : State → Prop) (f : Session → Session) : Prop := ∀ s, I s → I (s.setSession (f s.session))

/-- A write of the Transfer State keeps `I`. -/
def XferFree (I : State → Prop) (f : Transfer → Transfer) : Prop := ∀ s, I s → I (s.setXfer (f s.xfer))

theorem xferFree_keeps (hb : Steps E I g bt) {f : Transfer → Transfer} (hf : XferFree I f) :
    Spec E I (xferWrite ⟨g, bt, cs⟩ pt f) (fun _ => I) := xferWrite_keeps hb hf

theorem sessionFree_keeps (hb : Steps E I g bt) {f : Session → Session} (hf : SessionFree I f) :
    Spec E I (sessionWrite ⟨g, bt, cs⟩ pt f) (fun _ => I) := sessionWrite_keeps hb hf

/-- What an operation of `HOST` stands on: its register accesses and its steps keep `I`, and it may stop. -/
structure HostKeeps (E : Stop → State → Prop) (I : State → Prop) (W : Reg → Word → Prop) (a : Agent) (m : Act Unit) : Prop where
  regs : Regs E I W
  words : Words W
  appCmd : AppCmdFree I
  boundary : Steps E I a m
  stops : Stops E I

theorem command_keeps (h : HostKeeps E I W g bt) (command argument : Word) {rt : Int} (h6 : rt ≠ 6) (hrt : responseTypeAdmitted rt = true) :
    Spec E I (transmitCommand ⟨g, bt, cs⟩ command argument rt) (fun _ => I) :=
  transmitCommand_keeps' h.regs h.words.toCommandWords h.appCmd h.boundary command argument h6 hrt

theorem rcaArg_keeps (h : HostKeeps E I W g bt) : Spec E I readRcaArg (fun _ => I) := readRcaArg_keeps (fun s hs _ => h.stops.fault _ s hs)

theorem cardType_keeps (h : HostKeeps E I W g bt) : Spec E I readCardType (fun _ => I) := readCardType_keeps (fun s hs _ => h.stops.fault _ s hs)

/-! ### Polled reads (43 R281, 44 R330) -/

theorem fifoLoop_keeps (h : HostKeeps E I W g bt) {pts : ReadPoints} {limit : Nat} {at_ : List Word → Place}
    (hh : ∀ ws : List Word, ws.length ≤ limit → (at_ ws).sound = true) (n : Nat) {words : List Word} (hl : words.length ≤ limit) :
    Spec E I (fifoLoop ⟨g, bt, cs⟩ pts limit at_ n words) (fun x t => I t ∧ x.2.length ≤ limit) := by
  induction n generalizing words with
  | zero => exact Spec.hold (fun s hs => h.stops.hold _ s (hh words hl) hs)
  | succ n ih =>
    refine h.boundary.passed (fun _ => (regRead_keeps h.regs h.boundary .sta).seq (fun sta => h.boundary.passed (fun _ => Spec.ite
      (fun _ => h.boundary.passed (fun _ => Spec.pure (fun s hs => ⟨hs, hl⟩))) (fun _ => h.boundary.passed (fun _ => Spec.ite
        (fun hc => (regRead_keeps h.regs h.boundary .fifo).seq (fun w => ih ?_)) (fun _ => ih hl))))))
    simp only [Bool.and_eq_true, decide_eq_true_eq] at hc
    simp only [List.length_append, List.length_cons, List.length_nil]
    omega

theorem fifoDrain_keeps (h : HostKeeps E I W g bt) {pts : ReadPoints} (n : Nat) (words : List Word) : Spec E I (fifoDrain ⟨g, bt, cs⟩ pts n words) (fun _ => I) := by
  induction n generalizing words with
  | zero => exact h.boundary.returned
  | succ n ih =>
    exact (regRead_keeps h.regs h.boundary .sta).seq (fun sta => Spec.ite (fun _ => Spec.pure (fun _ h => h))
      (fun _ => (regRead_keeps h.regs h.boundary .fifo).seq (fun w => ih _)))

theorem polledRead_keeps (h : HostKeeps E I W g bt) {pts : ReadPoints} {limit : Nat} {at_ : List Word → Place}
    (hh : ∀ ws : List Word, ws.length ≤ limit → (at_ ws).sound = true) {words : List Word} (hl : words.length ≤ limit) :
    Spec E I (polledRead ⟨g, bt, cs⟩ pts limit at_ words) (fun _ => I) :=
  Spec.getState_seq (fun _ _ => Spec.seq ((fifoLoop_keeps h hh _ hl).post (fun _ _ x => x.1)) (fun _ =>
    Spec.seq (h.boundary.passed (fun _ => Spec.ite (fun _ => fifoDrain_keeps h _ _) (fun _ => Spec.pure (fun _ h => h)))) (fun _ =>
      (regWrite_keeps h.regs h.boundary (h.words.icr _)).seq (fun _ => h.boundary.returned))))

theorem missingWords_keeps (h : Regs E I W) (n : Nat) : Spec E I (missingWords n) (fun _ => I) := by
  induction n with
  | zero => exact Spec.pure (fun _ h => h)
  | succ n ih => exact (drawWord_keeps h).seq (fun _ => ih.seq (fun _ => Spec.pure (fun _ h => h)))

theorem padWords_keeps (h : Regs E I W) (limit : Nat) (words : List Word) : Spec E I (padWords limit words) (fun _ => I) :=
  (missingWords_keeps h _).seq (fun _ => Spec.pure (fun _ h => h))

theorem armPolledRead_keeps (h : HostKeeps E I W g bt) {proc : Proc} {length control : Word} (hc : W .dctrl control) :
    Spec E I (armPolledRead ⟨g, bt, cs⟩ proc length control) (fun _ => I) :=
  Spec.getState_seq (fun _ _ => (regWrite_keeps h.regs h.boundary (h.words.dtimer _)).seq (fun _ =>
    (regWrite_keeps h.regs h.boundary (h.words.dlen _)).seq (fun _ => regWrite_keeps h.regs h.boundary hc)))

/-- The writes of the SCR's words keep `I`. -/
def ScrFree (I : State → Prop) : Prop := ∀ k x, SessionFree I (fun n => { n with scr := n.scr.set k x })

theorem scrFrom_keeps (h : HostKeeps E I W g bt) (hscr : ScrFree I) (caller : ScrCaller)
    {words : List Word} (hl : words.length ≤ 2) : Spec E I (scrFrom ⟨g, bt, cs⟩ caller words) (fun _ => I) :=
  (polledRead_keeps h (fun ws hw => by simpa [Place.sound] using hw) hl).seq (fun x => Spec.ite
    (fun _ => (padWords_keeps h.regs 2 _).seq (fun _ => (sessionFree_keeps h.boundary (hscr 0 _)).seq (fun _ =>
      (sessionFree_keeps h.boundary (hscr 1 _)).seq (fun _ => h.boundary.returned))))
    (fun _ => Spec.pure (fun _ h => h)))

theorem findSCR_keeps (h : HostKeeps E I W g bt) (hscr : ScrFree I) (caller : ScrCaller) :
    Spec E I (findSCR ⟨g, bt, cs⟩ caller) (fun _ => I) :=
  Spec.thenOk (command_keeps h 16 8 (by decide) (by decide)) ((rcaArg_keeps h).seq (fun a =>
    Spec.thenOk (command_keeps h 55 a (by decide) (by decide)) ((armPolledRead_keeps h h.words.dctrlScr).seq (fun _ =>
      Spec.thenOk (command_keeps h 51 0 (by decide) (by decide)) (h.boundary.passed (fun _ => scrFrom_keeps h hscr caller (Nat.zero_le 2)))))))

theorem ssrFrom_keeps (h : HostKeeps E I W g bt) (hssr : ∀ s x, I s → I { s with ssr := x }) (caller : SsrCaller) {words : List Word}
    (hl : words.length ≤ 16) : Spec E I (ssrFrom ⟨g, bt, cs⟩ caller words) (fun _ => I) :=
  (polledRead_keeps h (fun ws hw => by simpa [Place.sound] using hw) hl).seq (fun x => Spec.ite
    (fun _ => (padWords_keeps h.regs 16 _).seq (fun _ => Spec.bind (R := fun _ => I) (Spec.update (fun s hs => hssr s _ hs))
      (fun _ => h.boundary.returned)))
    (fun _ => Spec.pure (fun _ h => h)))

theorem sendSDStatus_keeps (h : HostKeeps E I W g bt) (hssr : ∀ s x, I s → I { s with ssr := x }) (caller : SsrCaller) :
    Spec E I (sendSDStatus ⟨g, bt, cs⟩ caller) (fun _ => I) :=
  Spec.thenOk (command_keeps h 16 64 (by decide) (by decide)) ((rcaArg_keeps h).seq (fun a =>
    Spec.thenOk (command_keeps h 55 a (by decide) (by decide)) ((armPolledRead_keeps h h.words.dctrlSsr).seq (fun _ =>
      Spec.thenOk (command_keeps h 13 0 (by decide) (by decide)) (h.boundary.passed (fun _ => ssrFrom_keeps h hssr caller (Nat.zero_le 16)))))))

/-- The writes of `SD_GetCardStatus`'s result keep `I`. -/
def StatusFree (I : State → Prop) : Prop :=
  (∀ x, SessionFree I (fun n => { n with sdStatus := some x })) ∧ (∀ s x, I s → I { s with structs := x })

theorem storeSdStatus_keeps (hb : Steps E I g bt) (hst : StatusFree I) (out : Word) : Spec E I (storeSdStatus ⟨g, bt, cs⟩ out) (fun _ => I) :=
  Spec.getState_seq (fun _ _ => (sessionFree_keeps hb (hst.1 _)).seq (fun _ =>
    Spec.bind (R := fun _ => I) (Spec.update (fun s hs => hst.2 s _ hs)) (fun _ => Spec.pure (fun _ h => h))))

/-! ### wideBusOperationConfig (43 R285) -/

theorem settleLoop_keeps (h : HostKeeps E I W g bt) {code : BitVec 2} (hcode : code.getLsbD 1 = false)
    (hc : ∀ v, W .clkcr v → W .clkcr (withWidbus v code)) (caller : WideCaller) (n : Nat) :
    Spec E I (settleLoop ⟨g, bt, cs⟩ caller code n) (fun _ => I) := by
  induction n with
  | zero => exact Spec.hold (fun s hs => h.stops.hold _ s (by show decide _ = true; rw [hcode]; rfl) hs)
  | succ n ih =>
    refine h.boundary.passed (fun _ => (regRead_spec h.regs h.boundary .clkcr).bind (fun c => ?_))
    intro s hs
    exact ((regWrite_keeps h.regs h.boundary (hc c hs.2)).seq (fun _ => (regRead_keeps h.regs h.boundary .clkcr).seq (fun back =>
      Spec.ite (fun _ => h.boundary.returned) (fun _ => ih)))) s hs.1

theorem settle_keeps (h : HostKeeps E I W g bt) {code : BitVec 2} (hcode : code.getLsbD 1 = false)
    (hc : ∀ v, W .clkcr v → W .clkcr (withWidbus v code)) (caller : WideCaller) : Spec E I (settle ⟨g, bt, cs⟩ caller code) (fun _ => I) :=
  Spec.getState_seq (fun _ _ => settleLoop_keeps h hcode hc caller _)

theorem wideBusAfterScr_keeps (h : HostKeeps E I W g bt) (caller : WideCaller) (w : BusWidth) : Spec E I (wideBusAfterScr ⟨g, bt, cs⟩ caller w) (fun _ => I) :=
  (readOr_keeps (fun s hs _ => h.stops.fault _ s hs)).seq (fun _ => h.boundary.passed (fun _ => Spec.ite
    (fun _ => (rcaArg_keeps h).seq (fun a => Spec.thenOk (command_keeps h 55 a (by decide) (by decide))
      (Spec.thenOk (command_keeps h 6 _ (by decide) (by decide)) (h.boundary.passed (fun _ =>
        settle_keeps h (by cases w <;> decide) (fun v hv => h.words.widbus v w hv) caller)))))
    (fun _ => h.boundary.returned)))

theorem wideBus_keeps (h : HostKeeps E I W g bt) (hscr : ScrFree I) (caller : WideCaller) (mode : BusMode) :
    Spec E I (wideBusOperationConfig ⟨g, bt, cs⟩ caller mode) (fun _ => I) :=
  (cardType_keeps h).seq (fun _ => h.boundary.passed (fun _ => Spec.ite
    (fun _ => h.boundary.passed (fun _ => Spec.ite (fun _ => Spec.pure (fun _ h => h)) (fun _ =>
      (regRead_keeps h.regs h.boundary .resp1).seq (fun _ => Spec.ite
        (fun _ => h.boundary.returned) (fun _ => Spec.thenOk (findSCR_keeps h hscr _) (wideBusAfterScr_keeps h caller _))))))
    (fun _ => h.boundary.returned)))

/-! ### Negotiation (41) and the register decoder (42) -/

/-- The writes of `powerOn` keep `I`. -/
structure PowerOnFree (I : State → Prop) : Prop where
  powered : SessionFree I (fun n => { n with powered := true })
  first : SessionFree I (fun n => { n with cardType := some .standardV1_1 })
  probed : SessionFree I (fun n => { n with cardType := some .standardV2_0 })
  highCapacity : SessionFree I (fun n => { n with cardType := some .highCapacity })
  capArg : ∀ c, SessionFree I (fun n => { n with capArg := some c })

theorem capacityClass_keeps (hb : Steps E I g bt) (hp : PowerOnFree I) (ocr : Word) : Spec E I (capacityClass ⟨g, bt, cs⟩ ocr) (fun _ => I) :=
  hb.passed (fun _ => Spec.seq (onlyIf_keeps (fun _ => sessionFree_keeps hb hp.highCapacity)) (fun _ => hb.returned))

theorem voltageTrials_keeps (h : HostKeeps E I W g bt) (hp : PowerOnFree I) (n : Nat) : Spec E I (voltageTrials ⟨g, bt, cs⟩ n) (fun _ => I) := by
  induction n with
  | zero => exact h.boundary.returned
  | succ n ih =>
    exact h.boundary.passed (fun _ =>
      Spec.thenOk (command_keeps h 55 0 (by decide) (by decide)) ((readOr_keeps (fun s hs _ => h.stops.fault _ s hs)).seq (fun c =>
        Spec.thenOk (command_keeps h 41 _ (by decide) (by decide)) ((regRead_keeps h.regs h.boundary .resp1).seq (fun ocr =>
          h.boundary.passed (fun _ => Spec.ite
            (fun _ => h.boundary.passed (fun _ => Spec.ite (fun _ => h.boundary.passed (fun _ => (drawBool_keeps h.regs).seq (fun _ => Spec.ite
              (fun _ => h.boundary.returned) (fun _ => capacityClass_keeps h.boundary hp ocr))))
              (fun _ => capacityClass_keeps h.boundary hp ocr)))
            (fun _ => ih)))))))

theorem interfaceProbe_keeps (h : HostKeeps E I W g bt) (hp : PowerOnFree I) : Spec E I (interfaceProbe ⟨g, bt, cs⟩) (fun _ => I) :=
  Spec.seq (command_keeps h 8 _ (by decide) (by decide)) (fun _ => onlyIf_keeps (fun _ =>
    (sessionFree_keeps h.boundary hp.probed).seq (fun _ => sessionFree_keeps h.boundary (hp.capArg _))))

/-- `Delay` changes no state but the position, and may hold (70 R423). -/
theorem delay_keeps (h : HostKeeps E I W g bt) {caller : PowerCaller} (hc : (Place.delay caller).sound = true) (ms : Nat) :
    Spec E I (delay ⟨g, bt, cs⟩ pt caller ms) (fun _ => I) := by
  have loop : ∀ n, Spec E I (delayLoop ⟨g, bt, cs⟩ pt caller n) (fun _ => I) := by
    intro n
    induction n with
    | zero => exact Spec.hold (fun s hs => h.stops.hold _ s hc hs)
    | succ n ih => exact (h.boundary.step _).seq (fun _ => Spec.getState_seq (fun _ _ => Spec.ite (fun _ => ih) (fun _ => Spec.pure (fun _ h => h))))
  exact Spec.getState_seq (fun _ _ => loop _)

theorem powerOnSettled_keeps (h : HostKeeps E I W g bt) (hp : PowerOnFree I) {caller : PowerCaller} (hc : (Place.delay caller).sound = true) :
    Spec E I (powerOnSettled ⟨g, bt, cs⟩ caller) (fun _ => I) :=
  Spec.getState_seq (fun _ _ => (delay_keeps h hc _).seq (fun _ =>
    (sessionFree_keeps h.boundary hp.first).seq (fun _ => (sessionFree_keeps h.boundary (hp.capArg _)).seq (fun _ =>
      Spec.thenOk (command_keeps h 0 0 (by decide) (by decide)) ((interfaceProbe_keeps h hp).seq (fun _ =>
        Spec.thenOk (command_keeps h 55 0 (by decide) (by decide)) (h.boundary.passed (fun _ => voltageTrials_keeps h hp _))))))))

theorem powerOn_keeps (h : HostKeeps E I W g bt) (hp : PowerOnFree I) {caller : PowerCaller} (hc : (Place.delay caller).sound = true) :
    Spec E I (powerOn ⟨g, bt, cs⟩ caller) (fun _ => I) :=
  (regSet_keeps h.regs h.boundary (fun v hv => h.words.powerSet v _ hv)).seq (fun _ =>
    (sessionFree_keeps h.boundary hp.powered).seq (fun _ => powerOnSettled_keeps h hp hc))

theorem capture_keeps (h : HostKeeps E I W g bt) {r : Reg} {f : Word → Session → Session} (hf : ∀ v, SessionFree I (f v)) :
    Spec E I (capture ⟨g, bt, cs⟩ pt r f) (fun _ => I) :=
  (regRead_keeps h.regs h.boundary r).seq (fun v => sessionFree_keeps h.boundary (hf v))

theorem captureWords_keeps (h : HostKeeps E I W g bt) {line : Nat} {store : Fin 4 → Word → Session → Session}
    (hf : ∀ k v, SessionFree I (store k v)) : Spec E I (captureWords ⟨g, bt, cs⟩ line store) (fun _ => I) :=
  (capture_keeps h (hf 0)).seq (fun _ => (capture_keeps h (hf 1)).seq (fun _ => (capture_keeps h (hf 2)).seq (fun _ => capture_keeps h (hf 3))))

theorem captureCsd_keeps (h : HostKeeps E I W g bt) (hcsd : ∀ k x, SessionFree I (storeCsd k x)) :
    Spec E I (captureCsd ⟨g, bt, cs⟩) (fun _ => I) :=
  (rcaArg_keeps h).seq (fun a => Spec.thenOk (command_keeps h 9 a (by decide) (by decide)) ((captureWords_keeps h hcsd).seq (fun _ =>
    h.boundary.returned)))

/-- The writes of `initializeCard` keep `I`. -/
structure IdentifyFree (I : State → Prop) : Prop where
  cid : ∀ k x, SessionFree I (storeCid k x)
  csd : ∀ k x, SessionFree I (storeCsd k x)
  rca : RcaFree I

theorem initializeCard_keeps (h : HostKeeps E I W g bt) (hi : IdentifyFree I) : Spec E I (initializeCard ⟨g, bt, cs⟩) (fun _ => I) :=
  (regRead_keeps h.regs h.boundary .power).seq (fun _ => Spec.ite (fun _ => h.boundary.returned) (fun _ =>
    Spec.thenOk (command_keeps h 2 0 (by decide) (by decide)) ((captureWords_keeps h hi.cid).seq (fun _ =>
      ((cardType_keeps h).seq (fun _ => h.boundary.passed (fun _ => Spec.ite
        (fun _ => Spec.thenOk (transmitCommand_keeps h.regs h.words.toCommandWords h.appCmd h.boundary 3 0 (fun _ => hi.rca)
          (fun s hs _ => h.stops.refused _ s hs)) (captureCsd_keeps h hi.csd))
        (fun _ => captureCsd_keeps h hi.csd))))))))

/-- A write of `S.CardInfo` keeps `I`. -/
def CardInfoFree (I : State → Prop) : Prop := ∀ s c, I s → I (s.setSession { s.session with cardInfo := c })

theorem cardInfoWrite_keeps (hb : Steps E I g bt) (hc : CardInfoFree I) (f : CardInfo → CardInfo) :
    Spec E I (cardInfoWrite ⟨g, bt, cs⟩ pt f) (fun _ => I) := sessionWrite_keeps hb (fun s hs => hc s _ hs)

theorem writeCsd_keeps (hb : Steps E I g bt) (hc : CardInfoFree I) (x : Reg128) (l : CsdLayout) :
    Spec E I (writeCsd ⟨g, bt, cs⟩ x l) (fun _ => I) :=
  (cardInfoWrite_keeps hb hc _).seq (fun _ => (cardInfoWrite_keeps hb hc _).seq (fun _ => (cardInfoWrite_keeps hb hc _).seq (fun _ =>
    (cardInfoWrite_keeps hb hc _).seq (fun _ => hb.pass _ _))))

theorem decodeCSD_keeps (hb : Steps E I g bt) (hst : Stops E I) (hc : CardInfoFree I) : Spec E I (decodeCSD ⟨g, bt, cs⟩) (fun _ => I) :=
  (readCardType_keeps (fun s hs _ => hst.fault _ s hs)).seq (fun t => hb.passed (fun _ => Spec.ite (fun _ =>
    (readOr_keeps (fun s hs _ => hst.fault _ s hs)).seq (fun x => by
      cases layoutOf t x with
      | some l => exact (writeCsd_keeps hb hc x l).seq (fun _ => Spec.pure (fun _ h => h))
      | none => exact Spec.pure (fun _ h => h)))
    (fun _ => Spec.pure (fun _ h => h))))

theorem decodeCID_keeps (hb : Steps E I g bt) (hst : Stops E I) (hc : CardInfoFree I) : Spec E I (decodeCID ⟨g, bt, cs⟩) (fun _ => I) :=
  (readOr_keeps (fun s hs _ => hst.fault _ s hs)).seq (fun _ => (cardInfoWrite_keeps hb hc _).seq (fun _ => hb.returned))

theorem sdGetCardInfo_keeps (hb : Steps E I g bt) (hst : Stops E I) (hc : CardInfoFree I) : Spec E I (sdGetCardInfo ⟨g, bt, cs⟩) (fun _ => I) :=
  (readCardType_keeps (fun s hs _ => hst.fault _ s hs)).seq (fun _ => (cardInfoWrite_keeps hb hc _).seq (fun _ =>
    (readOr_keeps (fun s hs _ => hst.fault _ s hs)).seq (fun _ => (cardInfoWrite_keeps hb hc _).seq (fun _ =>
      (decodeCSD_keeps hb hst hc).seq (fun _ => Spec.ite
        (fun _ => (decodeCID_keeps hb hst hc).seq (fun _ => hb.returned))
        (fun _ => (cardInfoWrite_keeps hb hc _).seq (fun _ => Spec.pure (fun _ h => h))))))))

/-- The writes of `SD_Init` keep `I`. -/
structure InitFree (I : State → Prop) : Prop where
  powerOn : PowerOnFree I
  identify : IdentifyFree I
  cardInfo : CardInfoFree I
  scr : ScrFree I

theorem ifOk_keeps (hb : Steps E I g bt) {line : Nat} {e : Err} {op : Act Err} (h : Spec E I op (fun _ => I)) :
    Spec E I (ifOk ⟨g, bt, cs⟩ line e op) (fun _ => I) := hb.passed (fun _ => Spec.ite (fun _ => h) (fun _ => Spec.pure (fun _ h => h)))

theorem sdInitAfterPower_keeps (h : HostKeeps E I W g bt) (hi : InitFree I) {clockDivider : Word} (hd : clockDividerInRange clockDivider = true) (e : Err) :
    Spec E I (sdInitAfterPower ⟨g, bt, cs⟩ clockDivider e) (fun _ => I) :=
  Spec.getState_seq (fun _ _ => (ifOk_keeps h.boundary (initializeCard_keeps h hi.identify)).seq (fun _ =>
    (ifOk_keeps h.boundary (sdGetCardInfo_keeps h.boundary h.stops hi.cardInfo)).seq (fun _ =>
      (ifOk_keeps h.boundary ((rcaArg_keeps h).seq (fun a => command_keeps h 7 a (by decide) (by decide)))).seq (fun _ =>
        (ifOk_keeps h.boundary ((regRead_spec h.regs h.boundary .clkcr).bind (fun c s hs =>
            ((regWrite_keeps h.regs h.boundary (h.words.clkdiv c clockDivider hd hs.2)).seq (fun _ => Spec.pure (fun _ h => h))) s hs.1))).seq
          (fun _ => ifOk_keeps h.boundary (wideBus_keeps h hi.scr _ _))))))

/-- An operand that `SD_Init` admits may stand in a wait of `HOST`. -/
theorem delay_sound {clockDivider : Word} (hd : clockDividerInRange clockDivider = true) : (Place.delay (.sdInit clockDivider)).sound = true := by
  simpa [Place.sound, clockDividerInRange] using hd

theorem sdInitStages_keeps (h : HostKeeps E I W g bt) (hi : InitFree I) {clockDivider : Word} (hd : clockDividerInRange clockDivider = true) :
    Spec E I (sdInitStages ⟨g, bt, cs⟩ clockDivider) (fun _ => I) :=
  Spec.seq (Spec.getState_seq (fun _ _ => (regWrite_keeps h.regs h.boundary (h.words.clkInit _)).seq (fun _ =>
      regSet_keeps h.regs h.boundary (fun v hv => h.words.powerSet v _ hv)))) (fun _ =>
    (powerOn_keeps h hi.powerOn (delay_sound hd)).seq (fun e => sdInitAfterPower_keeps h hi hd e))

theorem sdInitResult_keeps (hb : Steps E I g bt) (e : Err) : Spec E I (sdInitResult ⟨g, bt, cs⟩ e) (fun _ => I) := hb.returned

theorem sdIsDetected_keeps (hb : Steps E I g bt) : Spec E I (sdIsDetected ⟨g, bt, cs⟩) (fun _ => I) :=
  Spec.getState_seq (fun _ _ => Spec.ite (fun _ => Spec.seq (Spec.seq (hb.step _) (fun _ => Spec.getState_seq (fun _ _ => Spec.pure (fun _ h => h))))
    (fun _ => Spec.pure (fun _ h => h))) (fun _ => hb.returned))

theorem sdInit_keeps (h : HostKeeps E I W g bt) (hi : InitFree I) (clockDivider : Word) : Spec E I (sdInit ⟨g, bt, cs⟩ clockDivider) (fun _ => I) := by
  refine Spec.bind (R := fun _ s => I s ∧ clockDividerInRange clockDivider = true)
    (Spec.refuseIf (fun _ s hs => h.stops.refused _ s hs) (fun hc s hs => ⟨hs, by simpa using hc⟩)) (fun _ s hs => ?_)
  exact ((refuseOutstanding_keeps h.boundary h.stops.refused).seq (fun _ => (sdIsDetected_keeps h.boundary).seq (fun _ => Spec.ite
    (fun _ => (sdInitStages_keeps h hi hs.2).seq (fun _ => sdInitResult_keeps h.boundary _)) (fun _ => h.boundary.returned)))) s hs.1

/-- Binding and set-up keep `I`. -/
structure BindFree (I : State → Prop) : Prop where
  bound : ∀ i, SessionFree I (fun n => { n with bound := some i })
  powered : SessionFree I (fun n => { n with powered := false })
  setup : ∀ s i, I s → I (s.setPeriph i { Periph.reset with clocked := true, routed := (s.periph i).routed })
  route : ∀ s i, I s → I (s.setPeriph i { s.periph i with routed := true })

theorem sdInitializeLL_keeps (hb : Steps E I g bt) (hst : Stops E I) (hf : BindFree I) (sel : Sdmmc) :
    Spec E I (sdInitializeLL ⟨g, bt, cs⟩ sel) (fun _ => I) :=
  (refuseOutstanding_keeps hb hst.refused).seq (fun _ => (sessionFree_keeps hb (hf.bound sel)).seq (fun _ =>
    Spec.seq (Spec.seq (hb.step _) (fun _ => Spec.update (fun s hs => hf.setup s sel hs))) (fun _ =>
      Spec.seq (Spec.seq (hb.step _) (fun _ => Spec.update (fun s hs => hf.route s sel hs))) (fun _ =>
        sessionFree_keeps hb hf.powered))))

/-! ### Block transfer (44) and Abort (60 R366) -/

/-- The writes of the arming call keep `I`. -/
structure ArmFree (I : State → Prop) : Prop where
  complete : XferFree I (fun x => { x with complete := false })
  error : XferFree I (fun x => { x with error := .ok })
  start : ∀ d, XferFree I (setInProgress d)
  clear : ∀ d, XferFree I (clearInProgress d)
  operation : ∀ o, XferFree I (fun x => { x with operation := some o })
  windows : ∀ s w z, I s → I { s with windows := w, stale := z }
  tainted : ∀ s x, I s → I { s with tainted := x }
  stale : ∀ s x, I s → I { s with stale := x }
  exhaust : ∀ s, I s → I s.exhaust

theorem checkOperands_keeps (hb : Steps E I g bt) (hst : Stops E I) (address buffer blockSize numBlocks : Word) :
    Spec E I (checkOperands ⟨g, bt, cs⟩ address buffer blockSize numBlocks) (fun _ => I) := by
  have check : ∀ {c : Bool} {r : Refusal}, Spec E I (refuseIf c r) (fun _ => I) :=
    Spec.refuseIf (fun _ s hs => hst.refused _ s hs) (fun _ _ h => h)
  have checkFault : ∀ {c : Bool} {r : Fault}, Spec E I (raiseIf c r) (fun _ => I) :=
    Spec.raiseIf (fun _ s hs => hst.fault _ s hs) (fun _ _ h => h)
  exact (refuseOutstanding_keeps hb hst.refused).seq (fun _ => hb.passed (fun _ => check.seq (fun _ => hb.passed (fun _ =>
    check.seq (fun _ => hb.passed (fun _ => (readCardType_keeps (fun s hs _ => hst.fault _ s hs)).seq (fun _ => check.seq (fun _ =>
      hb.passed (fun _ => checkFault.seq (fun _ => hb.passed (fun _ => Spec.getState_seq (fun _ _ => checkFault))))))))))))

theorem cacheHook_keeps (hb : Steps E I g bt) (ha : ArmFree I) (d : Dir) (buffer len : Nat) :
    Spec E I (cacheHook ⟨g, bt, cs⟩ d buffer len) (fun _ => I) :=
  Spec.getState_seq (fun _ _ => Spec.ite (fun _ => by
    cases d with
    | read => exact Spec.seq (hb.step _) (fun _ => Spec.update (fun s hs => ha.stale s _ hs))
    | write => exact Spec.seq (hb.step _) (fun _ => Spec.update (fun s hs => ha.tainted s _ hs))) (fun _ => hb.pass _ _))

theorem armTransfer_keeps (h : HostKeeps E I W g bt) (ha : ArmFree I) (d : Dir) (buffer numBlocks : Word) :
    Spec E I (armTransfer ⟨g, bt, cs⟩ d buffer numBlocks) (fun _ => I) :=
  Spec.getState_seq (fun _ _ => (regWrite_keeps h.regs h.boundary h.words.dctrlZero).seq (fun _ =>
    (xferFree_keeps h.boundary ha.complete).seq (fun _ => (xferFree_keeps h.boundary ha.error).seq (fun _ =>
      h.boundary.passed (fun _ => (xferFree_keeps h.boundary (ha.start d)).seq (fun _ =>
        Spec.bind (R := fun _ => I) (Spec.update (fun s hs => ha.windows s _ _ hs)) (fun _ =>
          (xferFree_keeps h.boundary (ha.operation _)).seq (fun _ => (regWrite_keeps h.regs h.boundary (h.words.dtimer _)).seq (fun _ =>
            (regWrite_keeps h.regs h.boundary (h.words.dlen _)).seq (fun _ =>
              (regWrite_keeps h.regs h.boundary (h.words.dctrlDma d)).seq (fun _ =>
                (regSet_keeps h.regs h.boundary (fun v hv => h.words.maskSet v d hv)).seq (fun _ =>
                  (regWrite_keeps h.regs h.boundary (h.words.idmabase0 _)).seq (fun _ =>
                    (regWrite_keeps h.regs h.boundary (h.words.idmactrl _)).seq (fun _ =>
                      regSet_keeps h.regs h.boundary (fun _ _ => h.words.cmdr _)))))))))))))))

theorem retryTransfer_keeps (h : HostKeeps E I W g bt) (command daddr : Word) (n : Nat) (e : Err) :
    Spec E I (retryTransfer ⟨g, bt, cs⟩ command daddr n e) (fun _ => I) := by
  induction n generalizing e with
  | zero => exact h.boundary.returned
  | succ n ih =>
    exact h.boundary.passed (fun _ => Spec.ite (fun _ => Spec.pure (fun _ h => h)) (fun _ => (rcaArg_keeps h).seq (fun a =>
      (command_keeps h 55 a (by decide) (by decide)).seq (fun _ =>
        (command_keeps h command daddr (by decide) (by decide)).seq (fun e' => h.boundary.passed (fun _ => ih e'))))))

theorem sendTransferCommand_keeps (h : HostKeeps E I W g bt) (ha : ArmFree I) (d : Dir) (command daddr : Word) :
    Spec E I (sendTransferCommand ⟨g, bt, cs⟩ d command daddr) (fun _ => I) :=
  h.boundary.passed (fun _ => (command_keeps h command daddr (by decide) (by decide)).seq (fun e =>
    (retryTransfer_keeps h command daddr _ e).seq (fun _ => h.boundary.passed (fun _ => Spec.ite (fun _ => h.boundary.returned)
      (fun _ => h.boundary.passed (fun _ => (xferFree_keeps h.boundary (ha.clear d)).seq (fun _ =>
        Spec.bind (R := fun _ => I) (Spec.update ha.exhaust) (fun _ => h.boundary.returned))))))))

theorem xferBlocks_keeps (h : HostKeeps E I W g bt) (ha : ArmFree I) (d : Dir) (address buffer blockSize numBlocks : Word) :
    Spec E I (xferBlocks ⟨g, bt, cs⟩ d address buffer blockSize numBlocks) (fun _ => I) :=
  (checkOperands_keeps h.boundary h.stops address buffer blockSize numBlocks).seq (fun _ => (cardType_keeps h).seq (fun _ =>
    h.boundary.passed (fun _ => Spec.thenOk (command_keeps h 16 512 (by decide) (by decide)) ((cacheHook_keeps h.boundary ha d _ _).seq (fun _ =>
      (armTransfer_keeps h ha d buffer numBlocks).seq (fun _ => sendTransferCommand_keeps h ha d _ _))))))

theorem sdGetStatus_keeps (h : HostKeeps E I W g bt) : Spec E I (sdGetStatus ⟨g, bt, cs⟩) (fun _ => I) :=
  (rcaArg_keeps h).seq (fun a => Spec.thenOk (command_keeps h 13 a (by decide) (by decide))
    ((regRead_keeps h.regs h.boundary .resp1).seq (fun _ => h.boundary.returned)))

theorem sdAbort_keeps (h : HostKeeps E I W g bt) : Spec E I (sdAbort ⟨g, bt, cs⟩) (fun _ => I) :=
  (regClr_keeps h.regs h.boundary h.words.maskClr).seq (fun _ => (regWrite_keeps h.regs h.boundary (h.words.idmactrl _)).seq (fun _ =>
    (regWrite_keeps h.regs h.boundary (h.words.icr _)).seq (fun _ => (sdGetStatus_keeps h).seq (fun _ => Spec.ite
      (fun _ => command_keeps h 12 0 (by decide) (by decide)) (fun _ => h.boundary.returned)))))

/-- The writes of a check call of direction `d` keep `I`. -/
structure CheckFree (I : State → Prop) (d : Dir) : Prop where
  clear : XferFree I (clearInProgress d)
  report : ∀ s, I s → I (s.reportEnd d)

theorem surfaceError_keeps (h : HostKeeps E I W g bt) {proc : Proc} {line : Nat} {d : Dir} (hc : CheckFree I d) : Spec E I (surfaceError ⟨g, bt, cs⟩ proc line d) (fun _ => I) :=
  (xferRead_keeps h.boundary _).seq (fun _ => (sdAbort_keeps h).seq (fun _ =>
    Spec.seq (onlyIf_keeps (fun _ => (xferFree_keeps h.boundary hc.clear).seq (fun _ => Spec.update (fun s hs => hc.report s hs)))) (fun _ =>
      h.boundary.returned)))

theorem checkTransfer_keeps (h : HostKeeps E I W g bt) {d : Dir} (hc : CheckFree I d) : Spec E I (checkTransfer ⟨g, bt, cs⟩ d) (fun _ => I) := by
  have close : ∀ proc p, Spec E I (do
      closeWindow d
      Frame.pass ⟨g, bt, cs⟩ proc p
      pure Err.ok) (fun _ => I) := fun proc p =>
    Spec.bind (R := fun _ => I) (Spec.update (fun s hs => hc.report s hs)) (fun _ => h.boundary.returned)
  refine Spec.getState_seq (fun s _ => ?_)
  cases s.cfg.checkForm with
  | nested =>
    exact (xferRead_keeps h.boundary _).seq (fun _ => Spec.ite (fun _ => (xferRead_keeps h.boundary _).seq (fun _ => Spec.ite
      (fun _ => h.boundary.returned) (fun _ => surfaceError_keeps h hc))) (fun _ => close _ _))
  | errorFirst =>
    exact (xferRead_keeps h.boundary _).seq (fun _ => Spec.ite (fun _ => (xferRead_keeps h.boundary _).seq (fun _ => Spec.ite
      (fun _ => h.boundary.returned) (fun _ => close _ _))) (fun _ => surfaceError_keeps h hc))

/-! ### The command rows (30 R110) -/

theorem sendCommand_keeps (h : HostKeeps E I W .host hostFrame.between) {argument : Act Word} (ha : Spec E I argument (fun _ => I))
    (command : Word) {rt : Int} (hrt : rt = 6 → RcaFree I) : Spec E I (sendCommand command argument rt) (fun _ => I) :=
  ha.seq (fun a => transmitCommand_keeps h.regs h.words.toCommandWords h.appCmd h.boundary command a hrt
    (fun s hs _ => h.stops.refused _ s hs))

end Sys2Proof.Machine
end

