-- ==== Sys2Proof/Laws/Exec.lean ====
section
/-! SUPPORT. Laws/Exec.lean: what each instruction writes beside registers, and the law that an assertion kept by those writes is kept by `exec` and by `step`,
whatever the schedule. -/

namespace Sys2Proof.Machine

variable {I : State → Prop} {W : Reg → Word → Prop}

/-- A stop by fault or refusal leaves no state; a hold keeps `I` and is sound. -/
def Partial (I : State → Prop) : Stop → State → Prop
  | .hold p, t => p.sound = true ∧ I t
  | .fault _, _ | .refused _, _ => True

theorem partial_stops : Stops (Partial I) I where
  fault _ _ _ := trivial
  refused _ _ _ := trivial
  hold _ _ hp hs := ⟨hp, hs⟩

/-- The writes of `sendSDStatus`'s bytes keep `I`. -/
def SsrFree (I : State → Prop) : Prop := ∀ s x, I s → I { s with ssr := x }

/-- What an instruction writes beside the registers every operation accesses, as what must keep `I`. -/
def Writes (I : State → Prop) : Instr → Prop
  | .cmd3 | .decodeR6 _ => RcaFree I
  | .transmitCommand _ _ rt | .classify _ rt => rt.toInt = 6 → RcaFree I
  | .sdInitializeLL _ => BindFree I
  | .sdInit _ => InitFree I
  | .sdReadBlocksDMA _ _ _ _ | .sdWriteBlocksDMA _ _ _ _ => ArmFree I
  | .sdCheckRead => CheckFree I .read
  | .sdCheckWrite => CheckFree I .write
  | .sdGetCardInfo | .decodeCSD | .decodeCID => CardInfoFree I
  | .sdGetCardStatus _ => SsrFree I ∧ StatusFree I
  | .sendSDStatus => SsrFree I
  | .powerOn => PowerOnFree I
  | .initializeCard => IdentifyFree I
  | .findSCR | .wideBusOperationConfig _ => ScrFree I
  | .sdmmc1IRQHandler => Spec (Partial I) I (runHandler irqHandler .sdmmc1) (fun _ => I)
  | .sdmmc2IRQHandler => Spec (Partial I) I (runHandler irqHandler .sdmmc2) (fun _ => I)
  | .cmd0 | .cmd2 | .cmd7 | .cmd8 | .cmd9 | .cmd12 | .cmd13 | .cmd16 _ | .cmd17 _ | .cmd18 _ | .cmd24 _ | .cmd25 _ | .cmd55 _ | .acmd6 _
  | .acmd13 | .acmd41 | .acmd51 | .sdGetStatus | .sdIsDetected | .sdAbort | .decodeCardStatus _ => True

/-- What `HOST` writes beside registers when it goes on from a place, as what must keep `I`. -/
def PlaceWrites (I : State → Prop) : Place → Prop
  | .call _ | .settleLoop _ _ => True
  | .delay .host => PowerOnFree I
  | .delay (.sdInit _) => InitFree I
  | .scrLoop _ _ => ScrFree I
  | .ssrLoop .host _ => SsrFree I
  | .ssrLoop (.getCardStatus _) _ => SsrFree I ∧ StatusFree I

/-- What every instruction stands on: register accesses and the boundary of `HOST` keep `I`. -/
structure MachineKeeps (I : State → Prop) (W : Reg → Word → Prop) : Prop where
  host : HostKeeps (Partial I) I W .host hostFrame.between
  hostStep : HostStepFree I

/-- What ends a call keeps `I`, and gives `Q`. -/
structure Returns (I Q : State → Prop) : Prop where
  ret : ∀ s r, I s → Q (s.setReturn .idle r)
  hold : ∀ s p, p.sound = true → I s → Q (s.setHostStep (.inside p p.path))
  outside : ∀ s, I s → Q s

theorem conclude_keeps {α : Type} {r : α → Result} {op : Act α} {Q : State → Prop} (hq : Returns I Q) (h : Spec (Partial I) I op (fun _ => I))
    {s t : State} (hs : I s) (ht : conclude r op s = .next t) : Q t :=
  conclude_spec (h.post (fun _ t ht => hq.ret t _ ht)) (fun p t hp => hq.hold t p hp.1 hp.2) hs ht

theorem finish_keeps {α : Type} {i : Instr} {r : α → Result} {op : Act α} {Q : State → Prop} (hq : Returns I Q)
    (h : Spec (Partial I) I op (fun _ => I)) {s t : State} (hs : I (s.enter i)) (ht : finish i r op s = .next t) : Q t :=
  conclude_keeps hq h hs ht

theorem finishOutside_keeps {op : Act Unit} {Q : State → Prop} (hq : Returns I Q) (h : Spec (Partial I) I op (fun _ => I)) {s t : State}
    (hs : I s) (ht : finishOutside op s = .next t) : Q t :=
  finishOutside_spec (h.post (fun _ t ht => hq.outside t ht)) (fun p t hp => hq.hold t p hp.1 hp.2) hs ht

theorem commandOnly_keeps (h : MachineKeeps I W) {argument : Act Word} (ha : Spec (Partial I) I argument (fun _ => I)) (command : Word) {rt : Int}
    (hrt : rt ≠ 6) : Spec (Partial I) I (sendCommand command argument rt) (fun _ => I) :=
  sendCommand_keeps h.host ha command (fun e => absurd e hrt)

/-- An assertion that the writes of an instruction keep holds after it, for every schedule. -/
theorem exec_keeps (h : MachineKeeps I W) {Q : State → Prop} (hq : Returns I Q) {i : Instr} (hw : Writes I i) {s t : State} (hs : I s)
    (ht : exec i s = .next t) : Q t := by
  have const : ∀ a : Word, Spec (Partial I) I (pure a : Act Word) (fun _ => I) := fun a => Spec.pure (fun _ h => h)
  have address : ∀ n, Spec (Partial I) I (readDataAddress n) (fun _ => I) := fun n =>
    (cardType_keeps h.host).seq (fun _ => Spec.pure (fun _ h => h))
  have rca := rcaArg_keeps h.host
  have ref : ∀ r, ∀ s, I s → Partial I (.refused r) s := fun _ _ _ => trivial
  have hn : ∀ i, I (s.enter i) := fun i => h.hostStep s _ hs
  cases i with
  | cmd0 => exact finish_keeps hq (commandOnly_keeps h (const _) 0 (by decide)) (hn _) ht
  | cmd2 => exact finish_keeps hq (commandOnly_keeps h (const _) 2 (by decide)) (hn _) ht
  | cmd3 => exact finish_keeps hq (sendCommand_keeps h.host (const _) 3 (fun _ => hw)) (hn _) ht
  | cmd7 => exact finish_keeps hq (commandOnly_keeps h rca 7 (by decide)) (hn _) ht
  | cmd8 => exact finish_keeps hq (commandOnly_keeps h (const _) 8 (by decide)) (hn _) ht
  | cmd9 => exact finish_keeps hq (commandOnly_keeps h rca 9 (by decide)) (hn _) ht
  | cmd12 => exact finish_keeps hq (commandOnly_keeps h (const _) 12 (by decide)) (hn _) ht
  | cmd13 => exact finish_keeps hq (commandOnly_keeps h rca 13 (by decide)) (hn _) ht
  | cmd16 len => exact finish_keeps hq (commandOnly_keeps h (const _) 16 (by decide)) (hn _) ht
  | cmd17 block => exact finish_keeps hq (commandOnly_keeps h (address block) 17 (by decide)) (hn _) ht
  | cmd18 block => exact finish_keeps hq (commandOnly_keeps h (address block) 18 (by decide)) (hn _) ht
  | cmd24 block => exact finish_keeps hq (commandOnly_keeps h (address block) 24 (by decide)) (hn _) ht
  | cmd25 block => exact finish_keeps hq (commandOnly_keeps h (address block) 25 (by decide)) (hn _) ht
  | cmd55 arg =>
    have ha : Spec (Partial I) I (readAppArgument arg) (fun _ => I) := by
      cases arg with
      | none => exact const 0
      | rcaArg => exact rca
    exact finish_keeps hq (commandOnly_keeps h ha 55 (by decide)) (hn _) ht
  | acmd6 width => exact finish_keeps hq (commandOnly_keeps h (const _) 6 (by decide)) (hn _) ht
  | acmd13 => exact finish_keeps hq (commandOnly_keeps h (const _) 13 (by decide)) (hn _) ht
  | acmd41 =>
    have ha : Spec (Partial I) I readAcmd41Argument (fun _ => I) :=
      (readOr_keeps (fun _ _ _ => trivial)).seq (fun _ => Spec.pure (fun _ h => h))
    exact finish_keeps hq (commandOnly_keeps h ha 41 (by decide)) (hn _) ht
  | acmd51 => exact finish_keeps hq (commandOnly_keeps h (const _) 51 (by decide)) (hn _) ht
  | sdInitializeLL sel => exact finish_keeps hq (sdInitializeLL_keeps h.host.boundary partial_stops hw sel) (hn _) ht
  | sdInit clockDivider => exact finish_keeps hq (sdInit_keeps h.host hw clockDivider) (hn _) ht
  | sdReadBlocksDMA address buffer blockSize numBlocks => exact finish_keeps hq (xferBlocks_keeps h.host hw _ _ _ _ _) (hn _) ht
  | sdWriteBlocksDMA address buffer blockSize numBlocks => exact finish_keeps hq (xferBlocks_keeps h.host hw _ _ _ _ _) (hn _) ht
  | sdCheckRead => exact finish_keeps hq (checkTransfer_keeps h.host hw) (hn _) ht
  | sdCheckWrite => exact finish_keeps hq (checkTransfer_keeps h.host hw) (hn _) ht
  | sdGetCardInfo => exact finish_keeps hq (sdGetCardInfo_keeps h.host.boundary partial_stops hw) (hn _) ht
  | sdGetStatus => exact finish_keeps hq (sdGetStatus_keeps h.host) (hn _) ht
  | sdGetCardStatus out =>
    exact finish_keeps hq (Spec.thenOk (sendSDStatus_keeps h.host hw.1 _) (storeSdStatus_keeps h.host.boundary hw.2 out)) (hn _) ht
  | sdIsDetected => exact finish_keeps hq (sdIsDetected_keeps h.host.boundary) (hn _) ht
  | sdAbort => exact finish_keeps hq (sdAbort_keeps h.host) (hn _) ht
  | transmitCommand command argument responseType =>
    exact finish_keeps hq (Spec.seq (Spec.refuseIf (fun _ s hs => ref _ s hs) (fun _ _ hs => hs)) (fun _ =>
      Spec.seq (Spec.refuseIf (fun _ s hs => ref _ s hs) (fun _ _ hs => hs)) (fun _ =>
        transmitCommand_keeps h.host.regs h.host.words.toCommandWords h.host.appCmd h.host.boundary command argument hw
        (fun s hs _ => ref _ s hs)))) (hn _) ht
  | classify command responseType =>
    exact finish_keeps hq (Spec.seq (Spec.refuseIf (fun _ s hs => ref _ s hs) (fun _ _ hs => hs)) (fun _ =>
      classify_keeps h.host.regs h.host.boundary command hw (fun s hs _ => ref _ s hs))) (hn _) ht
  | powerOn => exact finish_keeps hq (powerOn_keeps h.host hw rfl) (hn _) ht
  | initializeCard => exact finish_keeps hq (initializeCard_keeps h.host hw) (hn _) ht
  | decodeCSD => exact finish_keeps hq (decodeCSD_keeps h.host.boundary partial_stops hw) (hn _) ht
  | decodeCID => exact finish_keeps hq (decodeCID_keeps h.host.boundary partial_stops hw) (hn _) ht
  | findSCR => exact finish_keeps hq (findSCR_keeps h.host hw _) (hn _) ht
  | wideBusOperationConfig mode => exact finish_keeps hq (wideBus_keeps h.host hw _ mode) (hn _) ht
  | sendSDStatus => exact finish_keeps hq (sendSDStatus_keeps h.host hw _) (hn _) ht
  | sdmmc1IRQHandler => exact finishOutside_keeps hq hw hs ht
  | sdmmc2IRQHandler => exact finishOutside_keeps hq hw hs ht
  | decodeCardStatus r => exact finish_keeps hq (decodeStatus_keeps h.host.boundary r) (hn _) ht
  | decodeR6 r => exact finish_keeps hq (decodeR6_keeps h.host.boundary hw r) (hn _) ht

theorem returnWide_keeps {op : Act Err} {Q : State → Prop} (hq : Returns I Q) (hb : Steps (Partial I) I .host hostFrame.between) (h : Spec (Partial I) I op (fun _ => I)) {caller : WideCaller}
    {s t : State} (hs : I s) (ht : returnWide caller op s = .next t) : Q t := by
  cases caller with
  | host => exact conclude_keeps hq h hs ht
  | sdInit => exact conclude_keeps hq (h.seq (fun e => sdInitResult_keeps hb e)) hs ht

/-- An assertion that the writes of the operation keep holds after `HOST` has gone on from a sound hold. -/
theorem resume_keeps (h : MachineKeeps I W) {Q : State → Prop} (hq : Returns I Q) {p : Place} (hw : PlaceWrites I p) (hp : p.sound = true) {s t : State} (hs : I s) (ht : resume p s = .next t) : Q t := by
  cases p with
  | call _ => cases ht; exact hq.outside _ hs
  | delay caller =>
    cases caller with
    | host => exact conclude_keeps hq (powerOnSettled_keeps h.host hw hp) hs ht
    | sdInit d =>
      have hd : clockDividerInRange d = true := by simpa [Place.sound, clockDividerInRange] using hp
      exact conclude_keeps hq ((powerOnSettled_keeps h.host hw.powerOn hp).seq (fun e => (sdInitAfterPower_keeps h.host hw hd e).seq (fun e =>
        sdInitResult_keeps h.host.boundary e))) hs ht
  | scrLoop caller words =>
    have hl : words.length ≤ 2 := by simpa [Place.sound] using hp
    cases caller with
    | host => exact conclude_keeps hq (scrFrom_keeps h.host hw _ hl) hs ht
    | wideBus mode caller =>
      exact returnWide_keeps hq h.host.boundary (Spec.thenOk (scrFrom_keeps h.host hw _ hl) (wideBusAfterScr_keeps h.host caller _)) hs ht
  | ssrLoop caller words =>
    have hl : words.length ≤ 16 := by simpa [Place.sound] using hp
    cases caller with
    | host => exact conclude_keeps hq (ssrFrom_keeps h.host hw _ hl) hs ht
    | getCardStatus out => exact conclude_keeps hq (Spec.thenOk (ssrFrom_keeps h.host hw.1 _ hl) (storeSdStatus_keeps h.host.boundary hw.2 out)) hs ht
  | settleLoop caller code =>
    have hc : code.getLsbD 1 = false := by simpa [Place.sound] using hp
    have hcode : ∃ w, code = widbusCode w := by
      have cases : ∀ c : BitVec 2, c.getLsbD 1 = false → c = 0 ∨ c = 1 := by decide
      rcases cases code hc with h0 | h1
      · exact ⟨.w1, h0⟩
      · exact ⟨.w4, h1⟩
    obtain ⟨w, rfl⟩ := hcode
    exact returnWide_keeps hq h.host.boundary (settle_keeps h.host hc (fun v hv => h.host.words.widbus v w hv) caller) hs ht

end Sys2Proof.Machine
end

