-- ==== Sys2Proof/Laws/Memory.lean ====
section
/-! SUPPORT. Laws/Memory.lean: the laws of memory (20 R80): a read after a write, the bytes a write leaves alone, and the canonical form; and what a
store of the host does to the bytes the card has received (20 R91). -/

namespace Sys2Proof.Machine

theorem Memory.read_write_same (m : List Host.Cell) (a : Nat) (v : Byte) (lo : Nat) (h : Memory.wfFrom lo m = true) :
    Memory.read a (Memory.write a v m) = v := by
  have below : ∀ (m : List Host.Cell) (lo : Nat), Memory.wfFrom lo m = true → a < lo → Memory.read a m = unlistedByte := by
    intro m
    induction m with
    | nil => intros; rfl
    | cons c rest ih =>
      intro lo h ha
      simp only [Memory.wfFrom, Bool.and_eq_true, decide_eq_true_eq, bne_iff_ne] at h
      have : c.1 ≠ a := by omega
      simp only [Memory.read, this, if_false]
      exact ih _ h.2 (by omega)
  induction m generalizing lo with
  | nil => by_cases hv : v = unlistedByte <;> simp [Memory.write, Memory.read, hv]
  | cons c rest ih =>
    simp only [Memory.wfFrom, Bool.and_eq_true, decide_eq_true_eq, bne_iff_ne] at h
    by_cases h1 : a < c.1
    · by_cases hv : v = unlistedByte
      · have : c.1 ≠ a := by omega
        simp only [Memory.write, h1, hv, if_true, Memory.read, this, if_false]
        exact below rest (c.1 + 1) h.2 (by omega)
      · simp [Memory.write, h1, hv, Memory.read]
    · by_cases h2 : a = c.1
      · by_cases hv : v = unlistedByte
        · subst h2
          simp only [Memory.write, hv, if_true, Nat.lt_irrefl, if_false]
          exact below rest (c.1 + 1) h.2 (by omega)
        · simp [Memory.write, h2, hv, Memory.read]
      · have : c.1 ≠ a := fun e => h2 e.symm
        simp only [Memory.write, h1, h2, if_false, Memory.read, this]
        exact ih _ h.2

theorem Memory.read_write_other (m : List Host.Cell) {a c : Nat} (v : Byte) (h : c ≠ a) :
    Memory.read c (Memory.write a v m) = Memory.read c m := by
  have hac : a ≠ c := fun e => h e.symm
  induction m with
  | nil => by_cases hv : v = unlistedByte <;> simp [Memory.write, Memory.read, hv, hac]
  | cons d rest ih =>
    by_cases h1 : a < d.1
    · by_cases hv : v = unlistedByte <;> simp [Memory.write, h1, hv, Memory.read, hac]
    · by_cases h2 : a = d.1
      · by_cases hv : v = unlistedByte <;> simp [Memory.write, ← h2, hv, Memory.read, hac]
      · simp only [Memory.write, h1, h2, if_false, Memory.read, ih]

theorem Memory.wfFrom_mono {m : List Host.Cell} {lo lo' : Nat} (hle : lo' ≤ lo) (h : Memory.wfFrom lo m = true) :
    Memory.wfFrom lo' m = true := by
  cases m with
  | nil => rfl
  | cons c rest =>
    simp only [Memory.wfFrom, Bool.and_eq_true, decide_eq_true_eq] at h ⊢
    exact ⟨⟨by omega, h.1.2⟩, h.2⟩

theorem Memory.wfFrom_write {m : List Host.Cell} {lo a : Nat} (v : Byte) (ha : lo ≤ a) (h : Memory.wfFrom lo m = true) :
    Memory.wfFrom lo (Memory.write a v m) = true := by
  induction m generalizing lo with
  | nil => by_cases hv : v = unlistedByte <;> simp [Memory.write, Memory.wfFrom, hv, ha]
  | cons c rest ih =>
    simp only [Memory.wfFrom, Bool.and_eq_true, decide_eq_true_eq, bne_iff_ne] at h
    by_cases h1 : a < c.1
    · by_cases hv : v = unlistedByte
      · simp [Memory.write, h1, hv, Memory.wfFrom, h]
      · simp [Memory.write, h1, hv, Memory.wfFrom, h, ha, Nat.succ_le_of_lt h1]
    · by_cases h2 : a = c.1
      · by_cases hv : v = unlistedByte
        · simp only [Memory.write, h2, hv, if_true, if_false, Nat.lt_irrefl]
          exact Memory.wfFrom_mono (by omega) h.2
        · simp [Memory.write, ← h2, hv, Memory.wfFrom, ha, h2 ▸ h.2]
      · simp only [Memory.write, h1, h2, if_false, Memory.wfFrom, Bool.and_eq_true, decide_eq_true_eq, bne_iff_ne]
        exact ⟨h.1, ih (by omega) h.2⟩

/-- Every write keeps the canonical form. -/
theorem Memory.wf_write {m : List Host.Cell} (a : Nat) (v : Byte) (h : Memory.wf m = true) :
    Memory.wf (Memory.write a v m) = true := Memory.wfFrom_write v (Nat.zero_le a) h

theorem Memory.wf_memWrite (n : Nat) {m : List Host.Cell} (a v : Nat) (h : Memory.wf m = true) :
    Memory.wf (memWrite m a n v) = true := by
  induction n generalizing m a v with
  | zero => exact h
  | succ n ih => exact ih _ _ (Memory.wf_write _ _ h)

/-- What an invalidate leaves of a buffer: its bytes outside the range (20 R90). -/
theorem Buffer.exists_mem_minus (w : Buffer) (a len x : Nat) :
    (∃ v ∈ w.minus a len, v.base ≤ x ∧ x < v.base + v.len) ↔ (w.base ≤ x ∧ x < w.base + w.len) ∧ ¬(a ≤ x ∧ x < a + len) := by
  simp only [Buffer.minus, List.mem_filter, List.mem_cons, List.not_mem_nil, or_false, decide_eq_true_eq]
  constructor
  · rintro ⟨v, ⟨rfl | rfl, _⟩, h⟩ <;> simp only at * <;> omega
  · intro h
    by_cases hx : x < a
    · exact ⟨_, ⟨.inl rfl, by simp only; omega⟩, by simp only; omega⟩
    · exact ⟨_, ⟨.inr rfl, by simp only; omega⟩, by simp only; omega⟩

/-! ### The bytes the card has received (20 R91) -/

/-- What a store of the host does to the bytes the card has received: those that came from its address are draws, numbered in order, the others stay. -/
theorem redraw_spec (a : Nat) (l : List SentByte) (n : Nat) :
    (redraw a l n).1.length = l.length ∧ (redraw a l n).2 = n + l.countP (fun x => decide (x.racing = some a)) ∧
      ∀ (j : Nat) (x : SentByte), l[j]? = some x → (redraw a l n).1[j]? = some (if x.racing = some a then
        { x with byte := Config.freeByte (n + (l.take j).countP (fun x => decide (x.racing = some a))) } else x) := by
  induction l generalizing n with
  | nil => exact ⟨rfl, rfl, fun j x h => by simp at h⟩
  | cons y ys ih =>
    by_cases hy : y.racing = some a
    · obtain ⟨h1, h2, h3⟩ := ih (n + 1)
      rw [redraw, if_pos hy]
      refine ⟨by simp [h1], by simp [h2, hy]; omega, fun j x hj => ?_⟩
      cases j with
      | zero => cases hj; simp [hy]
      | succ j => simpa [hy, Nat.add_assoc, Nat.add_comm 1] using h3 j x (by simpa using hj)
    · obtain ⟨h1, h2, h3⟩ := ih n
      rw [redraw, if_neg hy]
      refine ⟨by simp [h1], by simp [h2, hy], fun j x hj => ?_⟩
      cases j with
      | zero => cases hj; simp [hy]
      | succ j => simpa [hy] using h3 j x (by simpa using hj)

end Sys2Proof.Machine
end

