-- ==== Sys2Proof/Laws/PerInstr.lean ====
section
/-! SUPPORT. PerInstr.lean: the family `EncodedLength`: an instruction's encoding has one selector byte or one command word and as many operand words as
its row of 30 R110 or R130 gives it. -/

namespace Sys2Proof.Laws.EncodedLength

/-- The number of bytes an encoding should have, from its selector byte or its command word (30 R110, R130, R135). -/
def expected : Code → Nat
  | .call (sel :: _) => 1 + 4 * callOperandWords sel.toNat
  | .call [] => 0
  | .command (a :: b :: c :: d :: _) => 4 + 4 * commandOperandWords (wordOfBytes a b c d)
  | .command [] | .command [_] | .command [_, _] | .command [_, _, _] => 0

/-- The number of bytes of an encoding. -/
def actual : Code → Nat
  | .call bytes | .command bytes => bytes.length

/-- The encoding of the instruction, if it has one, has the length its row gives it. -/
def Statement (i : Instr) : Prop := ∀ c : Code, encode i = some c → actual c = expected c

/-- From one equation about the encoding to the family's statement. -/
theorem of_map {i : Instr} (h : (encode i).map actual = (encode i).map expected) : Statement i := by
  intro c hc
  rw [hc] at h
  exact Option.some.inj h

theorem cmd0 : Statement .cmd0 := of_map rfl
theorem cmd2 : Statement .cmd2 := of_map rfl
theorem cmd3 : Statement .cmd3 := of_map rfl
theorem cmd7 : Statement .cmd7 := of_map rfl
theorem cmd8 : Statement .cmd8 := of_map rfl
theorem cmd9 : Statement .cmd9 := of_map rfl
theorem cmd12 : Statement .cmd12 := of_map rfl
theorem cmd13 : Statement .cmd13 := of_map rfl
theorem cmd16 (len : BlockLen) : Statement (.cmd16 len) := of_map rfl
theorem cmd17 (block : Word) : Statement (.cmd17 block) := of_map rfl
theorem cmd18 (block : Word) : Statement (.cmd18 block) := of_map rfl
theorem cmd24 (block : Word) : Statement (.cmd24 block) := of_map rfl
theorem cmd25 (block : Word) : Statement (.cmd25 block) := of_map rfl
theorem cmd55 (arg : AppArg) : Statement (.cmd55 arg) := of_map rfl
theorem acmd6 (width : BusWidth) : Statement (.acmd6 width) := of_map rfl
theorem acmd13 : Statement .acmd13 := of_map rfl
theorem acmd41 : Statement .acmd41 := of_map rfl
theorem acmd51 : Statement .acmd51 := of_map rfl
theorem sdInitializeLL (sel : Sdmmc) : Statement (.sdInitializeLL sel) := of_map rfl
theorem sdInit (clockDivider : Word) : Statement (.sdInit clockDivider) := of_map rfl
theorem sdReadBlocksDMA (address buffer blockSize numBlocks : Word) : Statement (.sdReadBlocksDMA address buffer blockSize numBlocks) := of_map rfl
theorem sdWriteBlocksDMA (address buffer blockSize numBlocks : Word) : Statement (.sdWriteBlocksDMA address buffer blockSize numBlocks) := of_map rfl
theorem sdCheckRead : Statement .sdCheckRead := of_map rfl
theorem sdCheckWrite : Statement .sdCheckWrite := of_map rfl
theorem sdGetCardInfo : Statement .sdGetCardInfo := of_map rfl
theorem sdGetStatus : Statement .sdGetStatus := of_map rfl
theorem sdGetCardStatus (out : Word) : Statement (.sdGetCardStatus out) := of_map rfl
theorem sdIsDetected : Statement .sdIsDetected := of_map rfl
theorem sdAbort : Statement .sdAbort := of_map rfl
theorem transmitCommand (command argument responseType : Word) : Statement (.transmitCommand command argument responseType) := of_map rfl
theorem classify (command responseType : Word) : Statement (.classify command responseType) := of_map rfl
theorem powerOn : Statement .powerOn := of_map rfl
theorem initializeCard : Statement .initializeCard := of_map rfl
theorem decodeCSD : Statement .decodeCSD := of_map rfl
theorem decodeCID : Statement .decodeCID := of_map rfl
theorem findSCR : Statement .findSCR := of_map rfl
theorem wideBusOperationConfig (mode : BusMode) : Statement (.wideBusOperationConfig mode) := of_map rfl
theorem sendSDStatus : Statement .sendSDStatus := of_map rfl
theorem sdmmc1IRQHandler : Statement .sdmmc1IRQHandler := of_map rfl
theorem sdmmc2IRQHandler : Statement .sdmmc2IRQHandler := of_map rfl
theorem decodeCardStatus (r : Word) : Statement (.decodeCardStatus r) := of_map rfl
theorem decodeR6 (r : Word) : Statement (.decodeR6 r) := of_map rfl

end Sys2Proof.Laws.EncodedLength
end

