-- ==== Sys2Proof/Tests/Slice0.lean ====
section
/-! SUPPORT. Slice0.lean: the model's own tests. Expected values are the vectors and programs of spec/95 (named in each comment) or are worked out by hand
from the rule named; `witness_X` shows a state and operands that meet the hypotheses of obligation X, a case for each of its clauses. -/

namespace Sys2Proof.Machine

/-- The state with a schedule. -/
def State.on (s : State) (sched : List (List Move)) : State := s.setSched sched

/-- The state with another card type. -/
def State.card (s : State) (t : CardType) : State := s.setSession { s.session with cardType := some t }

end Sys2Proof.Machine

namespace Sys2Proof.Tests

set_option Elab.async false

open Sys2Proof Sys2Proof.Machine

/-! ### Small states -/

/-- The settings of spec/95, with a budget of three polls. -/
def settings : Params where
  cmdBudgetLess1 := 2
  clearSet := .cmdFlags
  maxVoltTrialLess1 := 7
  settleMs := 0
  initClkdiv := 0x0FA
  polarityLess1 := 3
  busWidth := .w4
  detect := false
  detectLevel := true
  cacheHooks := false
  dmaRegion := [(0x24000000, 0x80000)]
  dtimer := 0xFFFFFFFF
  checkForm := .nested

/-- The CID words of V-IC-2 and P1. -/
def cidWords : Reg128 := ⟨0x03534453, 0x55313647, 0x80123456, 0x78013500⟩

/-- The CSD words of V-DEC-3. -/
def csdWords : Reg128 := ⟨0x400E0032, 0x5B590000, 0xEDC77F80, 0x0A400000⟩

/-- SDMMC1 bound, nothing else written. -/
def bare : State :=
  { State.reset with cfg := settings, session := { Session.reset with bound := some .sdmmc1 } }

/-- A high-capacity card selected on SDMMC1, `S.RCA = 0xAAAA`, power on, `RESP1 = 0x00000700`. -/
def base : State :=
  { bare with
    session := { bare.session with
      cardType := some .highCapacity, rca := some 0xAAAA, capArg := some 0x40000000, cid := .written cidWords, csd := .written csdWords }
    sdmmc1 := { Periph.reset with power := 0x13, clkcr := 2, resp1 := 0x700 } }

/-- A transfer armed on `base`: the operation, `MASK` and `CMDTRANS`, with the data flags `sta`. -/
def armed (c : Count) (d : Dir) (sta : Word) : State :=
  { base with
    xfer := { operation := some ⟨c, d⟩, complete := false, error := .ok, rxCplt := decide (d = .read), txCplt := decide (d = .write) }
    sdmmc1 := { base.sdmmc1 with
      cmdr := 0x151, idmactrl := 1, sta := sta, routed := true
      dctrl := (match d with
          | .read => 0x92
          | .write => 0x90)
      mask := (match d with
          | .read => 0x12A
          | .write => 0x11A) } }

/-- A transfer of two bytes at the top of memory, its command sent, `k` bytes moved. -/
def moving (d : Dir) (k : Nat) : State :=
  (armed .single d 0).setPeriph .sdmmc1
    { (armed .single d 0).sdmmc1 with dlen := 2, idmabase0 := 0xFFFFFFFF, dataSent := true, dmaCount := k }

/-- An observation of the next state, none where there is none. -/
def after {α : Type} (o : Host.Outcome State Fault Refusal) (f : State → α) : Option α :=
  match o with
  | .next t => some (f t)
  | .fault _ | .refused _ => none

/-- An outcome is a next state. -/
def goesOn (o : Host.Outcome State Fault Refusal) : Bool := (after o (fun _ => ())).isSome

/-- The state an operation's steps end in. -/
def endsIn {α : Type} (op : Act α) (s : State) : State :=
  match op s with
  | .ok _ t => t
  | .error _ t => t

/-- The fault of an outcome. -/
def faultOf : Host.Outcome State Fault Refusal → Option Fault
  | .fault f => some f
  | .next _ | .refused _ => none

/-- The refusal of an outcome. -/
def refusalOf : Host.Outcome State Fault Refusal → Option Refusal
  | .refused r => some r
  | .next _ | .fault _ => none

/-- The answer of SDMMC1 to command `c` with a card status. -/
def ans (c r : Word) : List (List Move) := shortScript .sdmmc1 c r

/-- The result, and `ARGR` and `CMDR` of SDMMC1. -/
def outcome (t : State) : Result × Word × Word := (t.result, t.sdmmc1.argr, t.sdmmc1.cmdr)

/-! ### WellFormed refuses what 30 R130 puts out of range -/

theorem test_wf_refuses_clock_divider : (Instr.sdInit 1024).wf = false ∧ (Instr.sdInit 1023).wf = true := by decide
theorem test_wf_refuses_command_index :
    (Instr.transmitCommand 64 0 1).wf = false ∧ (Instr.transmitCommand 63 0 1).wf = true ∧ (Instr.classify 64 1).wf = false
      ∧ (Instr.classify 63 1).wf = true := by decide

/-! ### Decoding: every constructor from bytes written out from 30 R110 and R130 -/

/-- The words of 30 R110, least significant byte first. -/
theorem test_decode_commands :
    decode false (.command [0x00, 0x10, 0, 0]) = .ok .cmd0 ∧ decode false (.command [0x02, 0x13, 0, 0]) = .ok .cmd2
    ∧ decode false (.command [0x03, 0x11, 0, 0]) = .ok .cmd3 ∧ decode false (.command [0x07, 0x11, 0, 0]) = .ok .cmd7
    ∧ decode false (.command [0x08, 0x12, 0, 0]) = .ok .cmd8 ∧ decode false (.command [0x09, 0x13, 0, 0]) = .ok .cmd9
    ∧ decode false (.command [0x0C, 0x11, 0, 0]) = .ok .cmd12 ∧ decode false (.command [0x0D, 0x11, 0, 0]) = .ok .cmd13
    ∧ decode true (.command [0x0D, 0x11, 0, 0]) = .ok .acmd13 ∧ decode true (.command [0x29, 0x12, 0, 0]) = .ok .acmd41
    ∧ decode true (.command [0x33, 0x11, 0, 0]) = .ok .acmd51 := by
  and_intros <;> rfl

/-- The commands with an operand word: the block number, or the position of a symbolic operand. -/
theorem test_decode_commands_with_operand :
    decode false (.command [0x10, 0x11, 0, 0, 2, 0, 0, 0]) = .ok (.cmd16 .b64)
    ∧ decode false (.command [0x11, 0x11, 0, 0, 0x64, 0, 0, 0]) = .ok (.cmd17 100)
    ∧ decode false (.command [0x12, 0x11, 0, 0, 0, 1, 0, 0]) = .ok (.cmd18 256)
    ∧ decode false (.command [0x18, 0x11, 0, 0, 0, 0, 1, 0]) = .ok (.cmd24 65536)
    ∧ decode false (.command [0x19, 0x11, 0, 0, 0xC8, 0, 0, 0x80]) = .ok (.cmd25 0x800000C8)
    ∧ decode false (.command [0x37, 0x11, 0, 0, 1, 0, 0, 0]) = .ok (.cmd55 .rcaArg)
    ∧ decode true (.command [0x06, 0x11, 0, 0, 1, 0, 0, 0]) = .ok (.acmd6 .w4) := by
  and_intros <;> rfl

/-- The kept fields of `CMDR` do not change which command a word is: V-ENC-6's word is CMD17, P3's are CMD25 and CMD55. -/
theorem test_decode_kept_fields :
    decode false (.command [0x51, 0x11, 0, 0, 0, 0, 0, 0]) = .ok (.cmd17 0)
    ∧ decode false (.command [0x59, 0x11, 0, 0, 0, 0, 0, 0]) = .ok (.cmd25 0)
    ∧ decode false (.command [0x77, 0x11, 0, 0, 0, 0, 0, 0]) = .ok (.cmd55 .none) := by
  and_intros <;> rfl

/-- The host calls of 30 R130; the three with operands listed in 95 §2.1 and P2, P3. -/
theorem test_decode_calls :
    decode false (.call [0x01, 0, 0, 0, 0]) = .ok (.sdInitializeLL .sdmmc1) ∧ decode false (.call [0x01, 1, 0, 0, 0]) = .ok (.sdInitializeLL .sdmmc2)
    ∧ decode false (.call [0x02, 2, 0, 0, 0]) = .ok (.sdInit 2)
    ∧ decode false (.call [0x03, 0x64, 0, 0, 0, 0, 0, 0, 0x24, 0, 2, 0, 0, 1, 0, 0, 0]) = .ok (.sdReadBlocksDMA 100 0x24000000 512 1)
    ∧ decode false (.call [0x04, 0xC8, 0, 0, 0, 0, 0x10, 0, 0x24, 0, 2, 0, 0, 2, 0, 0, 0]) = .ok (.sdWriteBlocksDMA 200 0x24001000 512 2)
    ∧ decode false (.call [0x05]) = .ok .sdCheckRead ∧ decode false (.call [0x06]) = .ok .sdCheckWrite
    ∧ decode false (.call [0x07]) = .ok .sdGetCardInfo ∧ decode false (.call [0x08]) = .ok .sdGetStatus
    ∧ decode false (.call [0x09, 0x78, 0x56, 0x34, 0x12]) = .ok (.sdGetCardStatus 0x12345678)
    ∧ decode false (.call [0x0A]) = .ok .sdIsDetected ∧ decode false (.call [0x0B]) = .ok .sdAbort := by
  and_intros <;> rfl

/-- The internal procedures and the interrupt entries of 30 R130. -/
theorem test_decode_procedures :
    decode false (.call [0x20, 0x0D, 0, 0, 0, 0, 0, 0xAA, 0xAA, 1, 0, 0, 0]) = .ok (.transmitCommand 13 0xAAAA0000 1)
    ∧ decode false (.call [0x21, 3, 0, 0, 0, 6, 0, 0, 0]) = .ok (.classify 3 6)
    ∧ decode false (.call [0x22]) = .ok .powerOn ∧ decode false (.call [0x23]) = .ok .initializeCard
    ∧ decode false (.call [0x24]) = .ok .decodeCSD ∧ decode false (.call [0x25]) = .ok .decodeCID ∧ decode false (.call [0x26]) = .ok .findSCR
    ∧ decode false (.call [0x27, 2, 0, 0, 0]) = .ok (.wideBusOperationConfig .w8) ∧ decode false (.call [0x28]) = .ok .sendSDStatus
    ∧ decode false (.call [0x40]) = .ok .sdmmc1IRQHandler ∧ decode false (.call [0x41]) = .ok .sdmmc2IRQHandler := by
  and_intros <;> rfl

/-- What the tables leave out is refused by name. -/
theorem test_decode_refuses :
    decode false (.call []) = .error .badLength ∧ decode false (.call [0x00]) = .error .unknownSelector
    ∧ decode false (.call [0x0C]) = .error .unknownSelector ∧ decode false (.call [0x29]) = .error .unknownSelector
    ∧ decode false (.call [0x42]) = .error .unknownSelector ∧ decode false (.call [0x05, 0, 0, 0, 0]) = .error .badLength
    ∧ decode false (.call [0x02, 2, 0]) = .error .badLength ∧ decode false (.call [0x02, 0, 4, 0, 0]) = .error .badOperand
    ∧ decode false (.call [0x27, 3, 0, 0, 0]) = .error .badOperand
    ∧ decode false (.command [0x01, 0x10, 0, 0]) = .error .unknownCommand ∧ decode false (.command [0x0D, 0x10, 0, 0]) = .error .unknownCommand
    ∧ decode false (.command [0x0D, 0x01, 0, 0]) = .error .unknownCommand := by
  and_intros <;> rfl

/-- The two functions have no selector, so no bytes are theirs. -/
theorem test_functions_have_no_encoding : encode (.decodeCardStatus 0) = none ∧ encode (.decodeR6 0) = none := by decide

/-! ### Command words and the transport (30 R101, 40) -/

/-- V-ENC-1 to 9. -/
theorem test_command_words :
    commandWord 0x00000000 0 0 = 0x00001000 ∧ commandWord 0x00000000 8 3 = 0x00001208 ∧ commandWord 0x00000208 41 3 = 0x00001229
    ∧ commandWord 0x00000229 2 2 = 0x00001302 ∧ commandWord 0x00000302 3 6 = 0x00001103 ∧ commandWord 0x00000150 17 1 = 0x00001151
    ∧ commandWord 0x00000151 12 1 = 0x0000114C ∧ commandWord 0x00000111 12 1 = 0x0000110C ∧ commandWord 0x00000000 13 1 = 0x0000110D := by
  decide +kernel

/-- V-TC-1. -/
theorem test_transmitCommand_sent :
    after (exec (.transmitCommand 0 0 0) (base.on (sentScript .sdmmc1))) (fun t => (outcome t, t.sdmmc1.icr, t.sdmmc1.sta, t.sched))
      = some ((.err .ok, 0, 0x0000), 0x002000C5, 0, []) := by decide +kernel

/-- V-TC-3 with the budget of three: the flag set after the last poll is cleared by the final write and never seen. -/
theorem test_transmitCommand_flag_after_last_poll :
    after (exec (.transmitCommand 0 0 0) (base.on (quiet 7 ++ [[.cmdFlags .sdmmc1 cmdsent]]))) (fun t => (t.result, t.sdmmc1.sta))
      = some (.err .timeout, 0) := by decide +kernel

/-- V-ENC-10: refused, so nothing is written. -/
theorem test_response_types_refused :
    refusalOf (exec (.transmitCommand 17 0 4) base) = some .badResponseType ∧ refusalOf (exec (.transmitCommand 17 0 5) base) = some .badResponseType
    := by decide +kernel

/-- `base` with the registers a classification reads. -/
def seen (sta rc r1 : Word) : State := { base with sdmmc1 := { base.sdmmc1 with sta := sta, respcmdr := rc, resp1 := r1 } }

/-- The result of a classification and the RCA after it. -/
def classified (c rt sta rc r1 : Word) : Option (Result × Option (BitVec 16)) :=
  after (exec (.classify c rt) (seen sta rc r1)) (fun t => (t.result, t.session.rca))

/-- V-CL-1 to 8. -/
theorem test_classify_flags :
    classified 0 0 0x80 0 0 = some (.err .ok, some 0xAAAA) ∧ classified 0 0 0x84 0 0 = some (.err .timeout, some 0xAAAA)
    ∧ classified 8 3 0x41 63 0x1AA = some (.err .ok, some 0xAAAA) ∧ classified 8 3 0x04 0 0 = some (.err .timeout, some 0xAAAA)
    ∧ classified 17 1 0x05 0 0 = some (.err .timeout, some 0xAAAA) ∧ classified 17 1 0x01 0 0 = some (.err .crcFail, some 0xAAAA)
    ∧ classified 2 2 0x40 63 0xFFFFFFFF = some (.err .ok, some 0xAAAA)
    ∧ classified 17 1 0x40 16 0x900 = some (.err .illegalCommand, some 0xAAAA) := by decide +kernel

/-- V-CL-9 to 14, `S.RCA` 0xAAAA before; V-CL-11 with another address. -/
theorem test_classify_responses :
    classified 17 1 0x40 17 0x900 = some (.err .ok, some 0xAAAA) ∧ classified 17 1 0x40 17 0x80000900 = some (.err .addrOutOfRange, some 0xAAAA)
    ∧ classified 3 6 0x40 3 0xBBBB0500 = some (.err .ok, some 0xBBBB) ∧ classified 3 6 0x40 2 0xBBBB0500 = some (.err .illegalCommand, some 0xAAAA)
    ∧ classified 7 1 0x200000 7 0x700 = some (.err .ok, some 0xAAAA) ∧ classified 3 6 0x01 3 0xBBBB0500 = some (.err .crcFail, some 0xAAAA) := by
  decide +kernel

/-- The result of `decodeCardStatus`. -/
def statusResult (r : Word) : Option Result := after (exec (.decodeCardStatus r) base) State.result

/-- V-CS-1, 7, 8, 18, 19: single bits. -/
theorem test_decodeCardStatus_single :
    statusResult 0x80000000 = some (.err .addrOutOfRange) ∧ statusResult 0x01000000 = some (.err .lockUnlockFailed)
    ∧ statusResult 0x00800000 = some (.err .comCrcFailed) ∧ statusResult 0x00002000 = some (.err .eraseReset)
    ∧ statusResult 0x00000008 = some (.err .akeSeqError) := by decide +kernel

/-- V-CS-20 to 26. -/
theorem test_decodeCardStatus_priority :
    statusResult 0 = some (.err .ok) ∧ statusResult 0x02000000 = some (.err .ok) ∧ statusResult 0x00001E20 = some (.err .ok)
    ∧ statusResult 0xFDFFE008 = some (.err .addrOutOfRange) ∧ statusResult 0x01400000 = some (.err .lockUnlockFailed)
    ∧ statusResult 0x00002008 = some (.err .eraseReset) ∧ statusResult 0x00C00000 = some (.err .comCrcFailed) := by decide +kernel

/-- The result of `decodeR6` and the RCA after it. -/
def r6Result (r : Word) : Option (Result × Option (BitVec 16)) := after (exec (.decodeR6 r) base) (fun t => (t.result, t.session.rca))

/-- V-R6-1 to 3. -/
theorem test_decodeR6_latches :
    r6Result 0x00010000 = some (.err .ok, some 1) ∧ r6Result 0x00000500 = some (.err .ok, some 0) ∧ r6Result 0xFFFF1FFF = some (.err .ok, some 0xFFFF)
    := by decide +kernel

/-- V-R6-4 to 8. -/
theorem test_decodeR6_errors :
    r6Result 0xBBBB2000 = some (.err .generalUnknownError, some 0xAAAA) ∧ r6Result 0xBBBB4000 = some (.err .illegalCmd, some 0xAAAA)
    ∧ r6Result 0xBBBB8000 = some (.err .comCrcFailed, some 0xAAAA) ∧ r6Result 0xBBBBE000 = some (.err .generalUnknownError, some 0xAAAA)
    ∧ r6Result 0xBBBBC000 = some (.err .illegalCmd, some 0xAAAA) := by decide +kernel

/-! ### SD commands: result, argument and the word left in CMDR (CPSMEN cleared by ENV). Words and arguments from 30 R106, R110. -/

theorem test_cmd0 : after (exec .cmd0 (base.on (sentScript .sdmmc1))) outcome = some (.err .ok, 0, 0x000) := by decide +kernel
theorem test_cmd2 :
    after (exec .cmd2 (base.on (quiet 4 ++ [longAnswer .sdmmc1 cidWords cmdrend]))) (fun t => (outcome t, t.sdmmc1.resp1, t.sdmmc1.resp4))
      = some ((.err .ok, 0, 0x302), 0x03534453, 0x78013500) := by decide +kernel
theorem test_cmd3 :
    after (exec .cmd3 (base.on (ans 3 0xBBBB0500))) (fun t => (outcome t, t.session.rca)) = some ((.err .ok, 0, 0x103), some 0xBBBB) := by
  decide +kernel
theorem test_cmd7 : after (exec .cmd7 (base.on (ans 7 0x700))) outcome = some (.err .ok, 0xAAAA0000, 0x107) := by decide +kernel
theorem test_cmd8 :
    after (exec .cmd8 (base.on (probeScript .sdmmc1 0x1AA))) outcome = some (.err .ok, 0x1AA, 0x208) := by decide +kernel
theorem test_cmd9 :
    after (exec .cmd9 (base.on (quiet 4 ++ [longAnswer .sdmmc1 csdWords cmdrend]))) outcome = some (.err .ok, 0xAAAA0000, 0x309) := by
  decide +kernel
theorem test_cmd12 : after (exec .cmd12 (base.on (ans 12 0xB00))) outcome = some (.err .ok, 0, 0x10C) := by decide +kernel
theorem test_cmd13 : after (exec .cmd13 (base.on (ans 13 0x80000900))) outcome = some (.err .addrOutOfRange, 0xAAAA0000, 0x10D) := by
  decide +kernel
theorem test_cmd16 : after (exec (.cmd16 .b8) (base.on (ans 16 0x900))) outcome = some (.err .ok, 8, 0x110) := by decide +kernel
theorem test_cmd17 :
    after (exec (.cmd17 3) ((base.card .standardV2_0).on (ans 17 0x900))) outcome = some (.err .ok, 0x600, 0x111) := by decide +kernel
theorem test_cmd18 : after (exec (.cmd18 3) (base.on (ans 18 0x900))) outcome = some (.err .ok, 3, 0x112) := by decide +kernel
/-- `(N × 512) mod 2^32`. -/
theorem test_cmd24 :
    after (exec (.cmd24 0x00800001) ((base.card .standardV1_1).on (ans 24 0x900))) outcome = some (.err .ok, 0x200, 0x118) := by decide +kernel
theorem test_cmd25 : after (exec (.cmd25 200) (base.on (ans 25 0x900))) outcome = some (.err .ok, 200, 0x119) := by decide +kernel
/-- V-TC-5, and the next word 0x110D is then ACMD13 (30 R111). -/
theorem test_cmd55 :
    after (exec (.cmd55 .none) (base.on (ans 55 0x120))) (fun t => (outcome t, t.appCmd)) = some ((.err .ok, 0, 0x137), true)
    ∧ after (exec (.cmd55 .rcaArg) (base.on (ans 55 0x920))) outcome = some (.err .ok, 0xAAAA0000, 0x137) := by decide +kernel
/-- The handler's CMD12 inside an accepted CMD55 (70 R425): the next word 0x110D is not written directly after the CMD55 (30 R111). -/
theorem test_cmd55_interrupted :
    after (exec (.cmd55 .none) ((armed .multiple .read 0x100).on ((ans 55 0x120).dropLast ++ [[.irq .sdmmc1]])))
      (fun t => (t.result, t.xfer.complete, t.sdmmc1.cmdr &&& 0x3F, t.appCmd)) = some (.err .ok, true, 12, false) := by decide +kernel
theorem test_acmd6 : after (exec (.acmd6 .w4) (base.on (ans 6 0x920))) outcome = some (.err .ok, 2, 0x106) := by decide +kernel
theorem test_acmd13 : after (exec .acmd13 (base.on (ans 13 0x920))) outcome = some (.err .ok, 0, 0x10D) := by decide +kernel
theorem test_acmd41 : after (exec .acmd41 (base.on (probeScript .sdmmc1 0xC0FF8000))) outcome = some (.err .ok, 0xC0100000, 0x229) := by
  decide +kernel
theorem test_acmd51 : after (exec .acmd51 (base.on (ans 51 0x920))) outcome = some (.err .ok, 0, 0x133) := by decide +kernel

/-- 30 R132, 93 U24: an index the block never issues; CMD1 is in the 6-bit range. -/
theorem test_command_not_issued : refusalOf (exec (.transmitCommand 1 0 1) base) = some .commandNotIssued := by decide +kernel

/-! ### The register file (10 R51, 20 R81, R88) -/

theorem test_register_addresses :
    registerAddress .sdmmc1 .sta = 0x52007034 ∧ registerAddress .sdmmc2 .fifo = 0x48022480 ∧ registerAt 0x5200700C = some (.sdmmc1, .cmdr)
    ∧ registerAt 0x48022450 = some (.sdmmc2, .idmactrl) ∧ registerAt 0x52007044 = none ∧ registerAt 0x24000000 = none := by decide +kernel

/-- A write of `FIFO` stores its word, which goes to the card in the data phase of a polled write. -/
theorem test_fifo_write :
    (applyEnv (.fifoSend .sdmmc1) (base.setPeriph .sdmmc1 ({ base.sdmmc1 with dctrl := 0x1 }.write .fifo 0x04030201))).sent = [⟨1, none⟩, ⟨2, none⟩, ⟨3, none⟩, ⟨4, none⟩]
    ∧ (base.sdmmc1.write .fifo 7).txFifo = [7] ∧ (base.sdmmc1.write .fifo 7).fifo = [] := by decide +kernel

/-- 10 R67: words move between the card and the FIFO also while the IDMA is enabled (notes/assumptions/18.md). -/
theorem test_fifo_beside_the_idma :
    (applyEnv (.fifoPush .sdmmc1 7) (base.setPeriph .sdmmc1 { base.sdmmc1 with dctrl := 0x3, idmactrl := 1 })).sdmmc1.fifo = [7] := by decide +kernel

/-- `moving .write 1` after a command with `CMDTRANS` is started; `mask` is the mask before it. -/
def commandedAgain (mask : Word) (exhausted : Bool) : State :=
  (moving .write 1).setPeriph .sdmmc1 ({ (moving .write 1).sdmmc1 with mask := mask, exhausted := exhausted }.write .cmdr 0x114D)

/-- 93 U21: a command with a stale `CMDTRANS` goes on from byte 1, or starts again at byte 0, once; 20 R82: under a transfer in flight `k` only rises. -/
theorem test_stale_cmdtrans :
    (applyEnv (.dmaSend .sdmmc1 1) (commandedAgain 0 false)).sdmmc1.dmaCount = 2
    ∧ (applyEnv (.dataRestart .sdmmc1) (commandedAgain 0 false)).sdmmc1.dmaCount = 0
    ∧ (applyEnv (.dataRestart .sdmmc1) (commandedAgain 0x11A true)).sdmmc1.dmaCount = 0
    ∧ (applyEnv (.dataRestart .sdmmc1) (commandedAgain 0x11A false)).sdmmc1.dmaCount = 1
    ∧ (applyEnv (.dataRestart .sdmmc1) (applyEnv (.dmaSend .sdmmc1 1) (applyEnv (.dataRestart .sdmmc1) (commandedAgain 0 false)))).sdmmc1.dmaCount
      = 1 := by
  decide +kernel

/-- 10 R36: bit 0 of `RESP4` is 0 under an R2 frame, whether or not `RESP4` is written; under a short response it is kept. -/
theorem test_resp4_bit0 :
    (applyEnv (.cmdFlags .sdmmc1 cmdrend) (base.setPeriph .sdmmc1 { base.sdmmc1 with cmdr := 0x1309, resp4 := 0xFFFFFFFF })).sdmmc1.resp4 = 0xFFFFFFFE
    ∧ (applyEnv (.cmdFlags .sdmmc1 cmdrend) (base.setPeriph .sdmmc1 { base.sdmmc1 with cmdr := 0x110D, resp4 := 0xFFFFFFFF })).sdmmc1.resp4
      = 0xFFFFFFFF := by decide +kernel

/-- 20 R90: an invalidate of the middle of a buffer leaves both ends of it stale; one of all of it leaves nothing. -/
theorem test_invalidate_part :
    (⟨.read, 0x100, 16⟩ : Buffer).minus 0x104 8 = [⟨.read, 0x100, 4⟩, ⟨.read, 0x10C, 4⟩] ∧ (⟨.read, 0x100, 16⟩ : Buffer).minus 0x80 0x90 = []
    ∧ (⟨.read, 0x100, 16⟩ : Buffer).minus 0x110 4 = [⟨.read, 0x100, 16⟩] := by decide +kernel

/-! ### Negotiation (41) -/

/-- P1's first call. -/
theorem test_sdInitializeLL :
    after (exec (.sdInitializeLL .sdmmc2) { base with sdmmc2 := { Periph.reset with mask := 0x12A } })
      (fun t => (t.session.bound, t.session.powered, t.sdmmc2.routed, t.sdmmc2.mask, t.sdmmc1.power))
      = some (some .sdmmc2, false, true, 0, 0x13) := by decide +kernel

/-- P1: the whole initialization, its answers and its end state. -/
theorem test_sdInit :
    after (exec (.sdInit 2) (bare.on (initScript .sdmmc1 false 0x920 [0x00FF8000, 0xC0FF8000] cidWords csdWords 0xAAAA0500 0x700 0x3502 0)))
      (fun t => (t.result, [t.sdmmc1.power, t.sdmmc1.clkcr, t.sdmmc1.argr, t.sdmmc1.cmdr, t.sdmmc1.dlen, t.sdmmc1.dctrl, t.sdmmc1.sta],
        t.session == { base.session with powered := true, scr := .written ⟨0x02350000, 0⟩, cardInfo := t.session.cardInfo },
        t.session.cardInfo.cardCapacity.getD 0, t.sched.length))
      = some (.bool true, [0x13, 0x4002, 2, 0x106, 8, 0x32, 0x80000], true, 31914459136, 0) := by decide +kernel

/-- 41 R200, R228, 20 R89: refused while a transfer is in progress; an interrupt that ends it before the flag is read lets the call pass. -/
theorem test_admission_reads :
    refusalOf (exec (.sdInitializeLL .sdmmc1) (armed .single .write 0x100)) = some .transferOutstanding
    ∧ after (exec (.sdInitializeLL .sdmmc1) ((armed .single .write 0x100).on [[.irq .sdmmc1]])) (fun t => (t.xfer.txCplt, t.sdmmc1.mask)) = some (false, 0)
    ∧ refusalOf (exec (.sdInit 2) ((armed .single .read 0x100).on [[], [], [.irq .sdmmc1]])) = some .transferOutstanding
    ∧ goesOn (exec (.sdInit 2) ((armed .single .read 0x100).on [[.irq .sdmmc1]])) = true
    ∧ (endsIn (refuseOutstanding hostFrame .sdInit 0) (base.enter (.sdInit 2))).hostStep = .inside (.call (.sdInit 2)) [⟨.sdInit, 0, 2⟩] := by
  and_intros <;> decide +kernel

/-- P6: an absent card. -/
theorem test_sdInit_absent :
    after (exec (.sdInit 2) { bare with cfg := { settings with detect := true } }) (fun t => (t.result, t.sdmmc1, t.session.cardType))
      = some (.bool false, Periph.reset, none) := by decide +kernel

/-- 41 R225: CMD0 silent, then CMD2 silent: what was written stays. -/
theorem test_sdInit_stages :
    after (exec (.sdInit 2) (base.on (quiet 5))) (fun t => (t.result, t.sdmmc1.clkcr, t.sdmmc1.power, t.session.cardType, t.session.rca))
      = some (.bool false, 0xFA, 0x13, some .standardV1_1, some 0xAAAA)
    ∧ after (exec (.sdInit 2) (base.on (quiet 5 ++ powerOnScript .sdmmc1 0x920 true [0x80FF8000])))
      (fun t => (t.result, t.sdmmc1.clkcr, t.session.cardType, t.session.cid)) = some (.bool false, 0xFA, some .standardV2_0, .written cidWords) := by
  and_intros <;> decide +kernel

/-- 41 R201. -/
theorem test_sdIsDetected :
    after (exec .sdIsDetected { bare with cfg := { settings with detect := true }, sched := [[.pin true]] }) State.result = some (.bool true)
    ∧ after (exec .sdIsDetected { bare with cfg := { settings with detect := true } }) State.result = some (.bool false) := by decide +kernel

/-- V-PO-1 and 2. -/
theorem test_powerOn :
    after (exec .powerOn (bare.on (powerOnScript .sdmmc1 0x120 true [0x00FF8000, 0xC0FF8000])))
      (fun t => (t.result, t.session.cardType, t.session.capArg, t.sdmmc1.argr, t.sdmmc1.power))
      = some (.err .ok, some .highCapacity, some 0x40000000, 0xC0100000, 3)
    ∧ after (exec .powerOn (bare.on (powerOnScript .sdmmc1 0x120 false [0x80FF8000])))
      (fun t => (t.result, t.session.cardType, t.session.capArg, t.sdmmc1.argr)) = some (.err .ok, some .standardV1_1, some 0, 0x80100000) := by
  decide +kernel

/-- V-PO-5: eight trials; V-PO-7: one command. -/
theorem test_powerOn_fails :
    after (exec .powerOn (bare.on (powerOnScript .sdmmc1 0x120 true (List.replicate 8 0x00FF8000))))
      (fun t => (t.result, t.session.cardType)) = some (.err .invalidVoltageRange, some .standardV2_0)
    ∧ after (exec .powerOn bare) (fun t => (t.result, t.session.cardType, t.session.capArg, t.sdmmc1.cmdr))
      = some (.err .timeout, some .standardV1_1, some 0, 0x1000) := by decide +kernel

/-- V-IC-2; V-IC-1. -/
theorem test_initializeCard :
    after (exec .initializeCard (base.on (identifyScript .sdmmc1 cidWords csdWords 0xBBBB0500)))
      (fun t => (t.result, t.session.cid, t.session.csd, t.session.rca, t.sdmmc1.argr))
      = some (.err .ok, .written cidWords, .written csdWords, some 0xBBBB, 0xBBBB0000)
    ∧ after (exec .initializeCard bare) (fun t => (t.result, t.sdmmc1)) = some (.err .requestNotApplicable, Periph.reset) := by decide +kernel

/-! ### The register decoder (42) -/

/-- `base` with a card type and CSD words. -/
def csdOf (t : CardType) (a b c d : Word) : State :=
  base.setSession { base.session with cardType := some t, csd := .written ⟨a, b, c, d⟩ }

/-- The capacity and block size that `decodeCSD` leaves. -/
def sizes (s : State) : Option (Result × Option Nat × Option Nat) :=
  after (exec .decodeCSD s) (fun t => (t.result, t.session.cardInfo.cardCapacity, t.session.cardInfo.cardBlockSize))

/-- V-DEC-1 to 6. -/
theorem test_decodeCSD_sizes :
    sizes (csdOf .standardV2_0 0x00260032 0x5B590000 0x00007F80 0x0A400000) = some (.err .ok, some 2048, some 512)
    ∧ sizes (csdOf .highCapacity 0x400E0032 0x5B590000 0x00007F80 0x0A400000) = some (.err .ok, some 524288, some 512)
    ∧ sizes (csdOf .highCapacity 0x400E0032 0x5B590000 0xEDC77F80 0x0A400000) = some (.err .ok, some 31914459136, some 512)
    ∧ sizes (csdOf .standardV1_1 0x00260032 0x5F5A03C4 0xEDB7FF80 0x0A400000) = some (.err .ok, some 2023751680, some 1024)
    ∧ sizes (csdOf .standardV2_0 0x00260032 0x5F5B03FF 0xC003FF80 0x0A400000) = some (.err .ok, some 4294967296, some 2048)
    ∧ sizes (csdOf .highCapacity 0 0x000003FF 0xC0038000 0) = some (.err .ok, some 2190435418112, some 512) := by
  and_intros <;> decide +kernel

/-- V-DEC-1 and 4: the fields. -/
theorem test_decodeCSD_fields :
    after (exec .decodeCSD (csdOf .standardV2_0 0x00260032 0x5B590000 0x00007F80 0x0A400000)) (fun t =>
      (t.session.cardInfo.csdCommon.map (fun d => [d.taac.toNat, d.maxBusClkFrec.toNat, d.cardComdClasses.toNat, d.rdBlockLen.toNat]),
        t.session.cardInfo.csdTail.map (fun d => [d.eraseGrSize.toNat, d.eraseGrMul.toNat, d.wrSpeedFact.toNat, d.maxWrBlockLen.toNat])))
      = some (some [0x26, 0x32, 0x5B5, 9], some [1, 0x7F, 2, 9])
    ∧ after (exec .decodeCSD (csdOf .standardV1_1 0x00260032 0x5F5A03C4 0xEDB7FF80 0x0A400000)) (fun t =>
      t.session.cardInfo.layout) = some (some (.v1 ⟨0, 0xF13, 5, 5, 5, 5, 7⟩)) := by
  and_intros <;> decide +kernel

/-- V-DEC-8. -/
theorem test_decodeCID :
    after (exec .decodeCID base) (fun t => t.session.cardInfo.cid)
      = some (some ⟨0x03, 0x5344, 0x53553136, 0x47, 0x80, 0x12345678, 0, 0x135, 0, 0⟩) := by decide +kernel

/-- 42 R240; V-DEC-7. -/
theorem test_sdGetCardInfo :
    after (exec .sdGetCardInfo base) (fun t => (t.result, t.session.cardInfo.cardType, t.session.cardInfo.rca, t.session.cardInfo.cardCapacity))
      = some (.err .ok, some .highCapacity, some 0xAAAA, some 31914459136)
    ∧ after (exec .sdGetCardInfo (base.card .secureDigitalIO)) (fun t => (t.result, t.session.cardInfo))
      = some (.err .unsupportedFeature, ⟨some .secureDigitalIO, some 0xAAAA, none, none, none, none, none, none, none, none⟩) := by decide +kernel

/-- 70 R403 and 42 R244: a V1 decode after a V2 one keeps `Reserved2b`; the V1-only fields are read after a V1 decode and not after a V2 one, though written. -/
theorem test_layouts_keep_their_fields :
    after (exec .decodeCSD (base.card .highCapacity)) (fun t => after (exec .decodeCSD (t.card .standardV2_0)) (fun u =>
      (u.session.cardInfo.reserved2b.toOption, u.session.cardInfo.v1Fields.isOk))) = some (some (some 0, true))
    ∧ after (exec .decodeCSD (base.card .standardV2_0)) (fun t => after (exec .decodeCSD (t.card .highCapacity)) (fun u =>
      (u.session.cardInfo.v1Fields.isOk, u.session.cardInfo.csdV1.isSome))) = some (some (false, true)) := by decide +kernel

/-! ### Bus configuration (43) -/

/-- V-WB-1's SCR; V-WB-8: the second word is a draw. -/
theorem test_findSCR :
    after (exec .findSCR (base.on (scrScript .sdmmc1 0x920 0x3502 0))) (fun t => (t.result, t.session.scr, t.sdmmc1.icr))
      = some (.err .ok, .written ⟨0x02350000, 0⟩, 0x1FE00FFF)
    ∧ after (exec .findSCR (base.on (ans 16 0x900 ++ ans 55 0x920 ++ quiet 3 ++ ans 51 0x920 ++ readScript .sdmmc1 [0x3502])))
      (fun t => (t.result, t.session.scr.c0, t.draws)) = some (.err .ok, some 0x02350000, 1) := by decide +kernel

/-- V-WB-1 and 5. -/
theorem test_wideBusOperationConfig :
    after (exec (.wideBusOperationConfig .w4) (base.on (wideScript .sdmmc1 0x920 0x3502 0))) (fun t => (t.result, t.sdmmc1.clkcr, t.sdmmc1.argr))
      = some (.err .ok, 0x4002, 2)
    ∧ after (exec (.wideBusOperationConfig .w1) (base.on (wideScript .sdmmc1 0x920 0x3101 0))) (fun t => (t.result, t.sdmmc1.clkcr, t.sdmmc1.argr))
      = some (.err .ok, 2, 0) := by decide +kernel

/-- V-WB-2, 3, 4 and 9: two settle iterations. -/
theorem test_wideBusOperationConfig_edges :
    after (exec (.wideBusOperationConfig .w8) base) (fun t => (t.result, t.sdmmc1)) = some (.err .unsupportedFeature, base.sdmmc1)
    ∧ after (exec (.wideBusOperationConfig .w4) (seen 0 0 0x02000900)) (fun t => (t.result, t.sdmmc1.cmdr)) = some (.err .lockUnlockFailed, 0)
    ∧ after (exec (.wideBusOperationConfig .w4) (base.on (wideScript .sdmmc1 0x920 0x3101 0))) (fun t => (t.result, t.sdmmc1.clkcr, t.sdmmc1.cmdr))
      = some (.err .requestNotApplicable, 2, 0x133)
    ∧ after (exec (.wideBusOperationConfig .w4) (base.on (quiet 1 ++ scrScript .sdmmc1 0x920 0x3502 0 ++ ans 55 0x920 ++ ans 6 0x920 ++ quiet 2
        ++ [[.staleWidbus .sdmmc1 true]] ++ quiet 2 ++ [[.staleWidbus .sdmmc1 false]]))) (fun t => (t.result, t.sdmmc1.clkcr, t.sched))
        = some (.err .ok, 0x4002, []) := by decide +kernel

/-! ### Block transfer, check calls, status (44) -/

/-- V-X-2: the registers armed. -/
theorem test_sdReadBlocksDMA :
    after (exec (.sdReadBlocksDMA 100 0x24000000 512 1) (base.on (quiet 2 ++ ans 16 0x900 ++ armScript false ++ ans 17 0x900)))
      (fun t => (outcome t, [t.sdmmc1.dlen, t.sdmmc1.dctrl, t.sdmmc1.mask, t.sdmmc1.idmabase0, t.sdmmc1.idmactrl], t.xfer))
      = some ((.err .ok, 100, 0x151), [0x200, 0x92, 0x12A, 0x24000000, 1], ⟨some ⟨.single, .read⟩, false, .ok, true, false⟩) := by decide +kernel

/-- V-X-4, the card silent after CMD16. -/
theorem test_sdReadBlocksDMA_exhausted :
    after (exec (.sdReadBlocksDMA 100 0x24000000 512 1) (base.on (quiet 2 ++ ans 16 0x900)))
      (fun t => (t.result, t.xfer.rxCplt, t.xfer.error, t.sdmmc1.mask, t.sdmmc1.idmactrl, t.sdmmc1.cmdr))
      = some (.err .timeout, false, .ok, 0x12A, 1, 0x1151) := by decide +kernel

/-- V-X-3. -/
theorem test_sdWriteBlocksDMA :
    after (exec (.sdWriteBlocksDMA 7 0x24001000 512 8) (base.on (quiet 2 ++ ans 16 0x900 ++ armScript false ++ ans 25 0x900)))
      (fun t => (outcome t, (t.sdmmc1.dlen, t.sdmmc1.dctrl, t.sdmmc1.mask), t.xfer))
      = some ((.err .ok, 7, 0x159), (0x1000, 0x90, 0x11A), ⟨some ⟨.multiple, .write⟩, false, .ok, false, true⟩) := by decide +kernel

/-- V-X-7 to 12. -/
theorem test_transfer_stops :
    refusalOf (exec (.sdWriteBlocksDMA 0 0x24000000 1024 1) base) = some .blockSizeNot512
    ∧ refusalOf (exec (.sdWriteBlocksDMA 0 0x24000000 512 0) base) = some .badBlockCount
    ∧ refusalOf (exec (.sdWriteBlocksDMA 0 0x24000000 512 65536) base) = some .badBlockCount
    ∧ refusalOf (exec (.sdWriteBlocksDMA 0x00800000 0x24000000 512 1) (base.card .standardV2_0)) = some .addressOverflow
    ∧ faultOf (exec (.sdWriteBlocksDMA 0 0x24000002 512 1) base) = some .bufferMisaligned
    ∧ faultOf (exec (.sdWriteBlocksDMA 0 0x20000000 512 1) base) = some .bufferNotDmaCapable
    ∧ refusalOf (exec (.sdWriteBlocksDMA 0 0x24000000 512 1) (armed .single .write 0)) = some .transferOutstanding := by decide +kernel

/-- A transfer armed, with an error recorded. -/
def failed (d : Dir) : State := (armed .single d 0).setXfer { (armed .single d 0).xfer with error := .dataCrcFail }

/-- V-CK-1 and 2. -/
theorem test_sdCheckRead :
    after (exec .sdCheckRead base) State.result = some (.err .ok)
    ∧ after (exec .sdCheckRead (armed .single .read 0)) (fun t => (t.result, t.xfer)) = some (.err .busy, (armed .single .read 0).xfer) := by
  decide +kernel

/-- V-CK-3 and 5, on a write: the recorded error, the flag cleared where Abort succeeds. -/
theorem test_sdCheckWrite :
    after (exec .sdCheckWrite ((failed .write).on (quiet 7 ++ ans 13 0xD00 ++ quiet 1 ++ ans 12 0xD00 ++ quiet 1)))
      (fun t => (t.result, t.xfer.txCplt, t.xfer.error)) = some (.err .dataCrcFail, false, .dataCrcFail)
    ∧ after (exec .sdCheckWrite ((failed .write).on (quiet 7 ++ ans 13 0xD00 ++ quiet 1))) (fun t => (t.result, t.xfer.txCplt))
      = some (.err .dataCrcFail, true) := by decide +kernel

/-- The result of `SD_GetStatus` on a CMD13 response. -/
def polled (r : Word) : Option Result := after (exec .sdGetStatus (base.on (ans 13 r))) State.result

/-- V-ST-1 to 8. -/
theorem test_sdGetStatus :
    polled 0x900 = some (.err .ok) ∧ polled 0xB00 = some (.err .busy) ∧ polled 0xD00 = some (.err .busy) ∧ polled 0xE00 = some (.err .busy)
    ∧ polled 0x700 = some (.err .error) ∧ polled 0x1200 = some (.err .error) ∧ polled 0x80000900 = some (.err .addrOutOfRange)
    ∧ after (exec .sdGetStatus base) State.result = some (.err .timeout) := by decide +kernel

/-- The FIFO words of V-ST-9. -/
def ssrWords : List Word := [0x80, 0x40000, 0x900004] ++ List.replicate 13 0

/-- V-ST-9: `b[0]`, `b[6]`, `b[8]`, `b[10]`. -/
theorem test_sendSDStatus :
    after (exec .sendSDStatus (base.on (ssrScript .sdmmc1 0x920 ssrWords)))
      (fun t => (t.result, t.ssr.length, [t.ssr.getD 0 0, t.ssr.getD 6 0, t.ssr.getD 8 0, t.ssr.getD 10 0], t.session.sdStatus))
      = some (.err .ok, 64, [0x80, 0x04, 0x04, 0x90], none) := by decide +kernel

/-- V-ST-9: the parsed fields, in the session and at `out`. -/
theorem test_sdGetCardStatus :
    after (exec (.sdGetCardStatus 0x24003000) (base.on (ssrScript .sdmmc1 0x920 ssrWords))) (fun t => (t.result, t.session.sdStatus, t.structs))
      = some (.err .ok, some ⟨2, 0, 0, 0x400, 4, 0, 9, 0, 0, 0⟩, [(0x24003000, ⟨2, 0, 0, 0x400, 4, 0, 9, 0, 0, 0⟩)]) := by decide +kernel

/-! ### Interrupts and Abort (60) -/

/-- An entry of the handler: the Transfer State, and `CMDR`, `IDMACTRL`, `MASK`, `ICR`. -/
def handled (s : State) : Option (Transfer × Word × Word × Word × Word) :=
  after (exec .sdmmc1IRQHandler s) (fun t => (t.xfer, t.sdmmc1.cmdr, t.sdmmc1.idmactrl, t.sdmmc1.mask, t.sdmmc1.icr))

/-- V-IRQ-1; V-IRQ-2 with CMD12 answered; V-IRQ-3. -/
theorem test_sdmmc1IRQHandler_end :
    handled (armed .single .read 0x500) = some (⟨some ⟨.single, .read⟩, true, .ok, false, false⟩, 0x111, 0, 0, 0x1FE00FFF)
    ∧ handled ((armed .multiple .read 0x100).on (quiet 7 ++ ans 12 0xB00))
      = some (⟨some ⟨.multiple, .read⟩, true, .ok, false, false⟩, 0x10C, 0, 0, 0x1FE00FFF)
    ∧ handled (armed .multiple .write 0x100) = some (⟨some ⟨.multiple, .write⟩, true, .ok, false, false⟩, 0x110C, 0, 0, 0x1FE00FFF) := by
  decide +kernel

/-- The error an entry of the handler records, whether the transfer is still in progress, `IDMACTRL`. -/
def recorded (d : Dir) (sta : Word) : Option (Err × Bool × Word) :=
  after (exec .sdmmc1IRQHandler (armed .single d sta)) (fun t => (t.xfer.error, inProgress d t.xfer, t.sdmmc1.idmactrl))

/-- V-IRQ-4 to 10. -/
theorem test_sdmmc1IRQHandler_errors :
    recorded .read 0x0000000A = some (.dataCrcFail, true, 1) ∧ recorded .read 0x00000102 = some (.ok, false, 0)
    ∧ recorded .write 0x08000002 = some (.idmaError, true, 0) ∧ recorded .write 0x00000010 = some (.txUnderrun, true, 1)
    ∧ recorded .read 0x00000030 = some (.rxOverrun, true, 1) ∧ recorded .read 0 = some (.ok, true, 1)
    ∧ recorded .read 0x00000008 = some (.dataTimeout, true, 1) := by decide +kernel

/-- 60 R356: the entry of the bound controller runs the handler, the other is refused. -/
theorem test_sdmmc2IRQHandler :
    refusalOf (exec .sdmmc2IRQHandler (armed .single .read 0x500)) = some .badCall
    ∧ after (exec .sdmmc2IRQHandler ({ armed .single .read 0 with sdmmc2 := { Periph.reset with sta := 0x500, mask := 0x12A } }.setSession
        { base.session with bound := some .sdmmc2 })) (fun t => (t.xfer.complete, t.xfer.rxCplt, t.sdmmc2.mask, t.sdmmc2.sta))
      = some (true, false, 0, 0) := by decide +kernel

/-- V-AB-1, V-AB-2, V-AB-3. -/
theorem test_sdAbort :
    after (exec .sdAbort (base.on (quiet 4 ++ ans 13 0x900))) (fun t => (outcome t, t.sdmmc1.icr)) = some ((.err .ok, 0xAAAA0000, 0x10D), 0x002000C5)
    ∧ after (exec .sdAbort ((failed .write).on (quiet 4 ++ ans 13 0xD00 ++ quiet 1 ++ ans 12 0xD00)))
      (fun t => (outcome t, t.sdmmc1.mask, t.sdmmc1.idmactrl, t.xfer)) = some ((.err .ok, 0, 0x14C), 0, 0, (failed .write).xfer)
    ∧ after (exec .sdAbort base) outcome = some (.err .ok, 0xAAAA0000, 0x110D) := by decide +kernel

/-- V-AB-4. -/
theorem test_sdAbort_stop_fails :
    after (exec .sdAbort (base.on (quiet 4 ++ ans 13 0xD00 ++ quiet 1 ++ quiet 4 ++ [shortAnswer .sdmmc1 0 0 ccrcfail]))) State.result
      = some (.err .crcFail) := by decide +kernel

/-! ### Steps -/

/-- P2's call line runs the call and is moved past; a hold goes on. -/
theorem test_step_fetches :
    after (step { armed .single .read 0 with program := [.code (.call [0x05]), .load 3] }) (fun t => (t.result, t.program))
      = some (.err .busy, [.load 3])
    ∧ refusalOf (step { base with program := [.code (.call [0x0C])] }) = some .badCall
    ∧ after (step (base.withFetchWord 32 0x110D)) outcome = some (.err .timeout, 0xAAAA0000, 0x110D) := by decide +kernel

/-- 10 R49: in the command that `SD_GetStatus` sends inside `SD_Abort`, `HOST` stands in all three operations, at its return when it ends; the last
statement of `SD_Abort` is its return; `IRQ` ends at its own last line; a write of the session is a point although it is no step. -/
theorem test_positions :
    (endsIn (transmitCommand ((hostFrame.call ⟨.sdAbort, 4, 0⟩).call ⟨.sdGetStatus, 1, 0⟩) 13 0 1) (base.enter .sdAbort)).hostStep
      = .inside (.call .sdAbort) [⟨.sdAbort, 4, 0⟩, ⟨.sdGetStatus, 1, 0⟩, ⟨.transmitCommand, 15, 0⟩]
    ∧ (endsIn (sdAbort hostFrame) (base.enter .sdAbort)).hostStep = .inside (.call .sdAbort) [⟨.sdAbort, 6, 0⟩]
    ∧ (endsIn (sessionWrite hostFrame ⟨.powerOn, 4, 0⟩ (fun x => x)) (base.enter .powerOn)).hostStep = .inside (.call .powerOn) [⟨.powerOn, 4, 0⟩]
    ∧ (endsIn irqHandler (base.setIrqStep (.inside []))).irqStep = .inside [⟨.irqHandler, 18, 1⟩] := by decide +kernel

/-- 41 R210: each word of the CID is written by a statement of its own, at the point of its read; 10 R49: the two statements of a line are two points. -/
theorem test_statement_of_a_line :
    (endsIn (capture hostFrame ⟨.initializeCard, 3, 1⟩ .resp1 (storeCid 0)) (base.enter .initializeCard)).session.cid
      = { RegCells.written cidWords with c0 := some 0x700 }
    ∧ (endsIn (hostFrame.pass .transmitCommand [(6, 0), (7, 0), (7, 1)]) (base.enter .cmd0)).hostStep = .inside (.call .cmd0) [⟨.transmitCommand, 7, 1⟩]
    ∧ (endsIn (captureWords hostFrame 3 storeCid) (base.enter .initializeCard)).hostStep = .inside (.call .initializeCard) [⟨.initializeCard, 4, 2⟩]
    := by decide +kernel

/-- 70 R423: `Delay` holds while its collaborator has not returned, in `SD_Init` as in `powerOn`, and the operation goes on from there. -/
theorem test_delay_holds :
    after (exec .powerOn { bare with delayRuns := true }) (fun t => (t.hostStep, t.sdmmc1.power, t.session.cardType, t.session.powered))
      = some (.inside (.delay .host) [⟨.powerOn, 3, 1⟩], 3, none, true)
    ∧ after (exec (.sdInit 2) { bare with delayRuns := true }) (fun t => (t.hostStep, t.sdmmc1.clkcr))
      = some (.inside (.delay (.sdInit 2)) [⟨.sdInit, 4, 0⟩, ⟨.powerOn, 3, 1⟩], 0xFA)
    ∧ after (exec .powerOn ({ bare with delayRuns := true }.on (quiet 2 ++ [[], [Move.pin true], [Move.delayRuns false]]
        ++ (powerOnScript .sdmmc1 0x120 true [0xC0FF8000]).drop 3)))
      (fun t => (t.result, t.hostStep, t.session.cardType, t.pin, t.sched.length)) = some (.err .ok, .idle, some .highCapacity, true, 0)
    := by and_intros <;> decide +kernel

/-- P2's `env` line: the IDMA stores, then the flags; a pending interrupt of the line is taken (60 R370). -/
theorem test_step_env_line :
    after (step { armed .single .read 0 with
        sdmmc1 := { (armed .single .read 0).sdmmc1 with dlen := 2, idmabase0 := 0x24000000, dataSent := true }
        program := [.env [.dmaStore .sdmmc1 [0xAB, 0xCD], .dataFlags .sdmmc1 0x500, .irq .sdmmc1]] })
      (fun t => (t.mem, t.xfer.complete, t.xfer.rxCplt, t.sdmmc1.mask)) = some ([(0x24000000, 0xAB), (0x24000001, 0xCD)], true, false, 0) := by
  decide +kernel

/-! ### Witnesses: the hypotheses of each obligation, met together; a line for each clause -/

/-- `base` with its status word of an answered command in the schedule. -/
def answered (c r : Word) : State := base.on (quiet 4 ++ [shortAnswer .sdmmc1 c r cmdrend])


theorem witness_DecodeEncodeAgree :
    Instr.wf (.sdInit 1023) = true ∧ Instr.wf (.transmitCommand 63 0xFFFFFFFF 6) = true ∧ Instr.readAfter false .cmd13 = true
    ∧ Instr.readAfter true .acmd13 = true ∧ encode .cmd13 = some (.command [0x0D, 0x11, 0, 0]) ∧ encode .acmd13 = some (.command [0x0D, 0x11, 0, 0])
    ∧ encode (.sdInit 1023) = some (.call [0x02, 0xFF, 0x03, 0, 0])
    ∧ encode (.cmd18 0xFFFFFFFF) = some (.command [0x12, 0x11, 0, 0, 0xFF, 0xFF, 0xFF, 0xFF]) := by
  and_intros <;> decide +kernel

theorem witness_DecodedInstructionsAdmitted :
    decode false (.call [0x02, 0xFF, 0x03, 0, 0]) = .ok (.sdInit 1023) ∧ decode true (.command [0x0D, 0x11, 0, 0]) = .ok .acmd13
    ∧ decode false (.command [0x0D, 0x11, 0, 0]) = .ok .cmd13 := by
  and_intros <;> rfl

theorem witness_CallsOutsideTableRefused :
    base.hostStep = .idle
    ∧ (0x0C : Byte).toNat ∉ [0x01, 0x02, 0x03, 0x04, 0x05, 0x06, 0x07, 0x08, 0x09, 0x0A, 0x0B, 0x20, 0x21, 0x22, 0x23, 0x24, 0x25, 0x26, 0x27,
        0x28, 0x40, 0x41]
    ∧ 2 ≤ (2 : Word).toNat ∧ 1024 ≤ (1024 : Word).toNat ∧ 64 ≤ (64 : Word).toNat ∧ 3 ≤ (3 : Word).toNat
    ∧ refusalOf (step { base with program := [.code (.call [0x0C])] }) = some .badCall
    ∧ refusalOf (step { base with program := [.code (callCode 0x27 [3])] }) = some .badCall := by
  and_intros <;> decide +kernel

/-- Every response type of the first clause is a number; the second takes 4. -/
theorem witness_CommandWordFields :
    (63 : Word).toNat < 64 ∧ (63 : Word).toNat ∉ [0, 2, 3, 6, 7, 8, 9, 12, 13, 16, 17, 18, 24, 25, 41, 51, 55]
    ∧ (55 : Word).toNat ∈ [0, 2, 3, 6, 7, 8, 9, 12, 13, 16, 17, 18, 24, 25, 41, 51, 55]
    ∧ (4 : Word) ≠ 0 ∧ (4 : Word) ≠ 1 ∧ (4 : Word) ≠ 2 ∧ (4 : Word) ≠ 3 ∧ (4 : Word) ≠ 6 := by
  and_intros <;> decide +kernel

theorem witness_StepRunsDecodedInstruction :
    base.hostStep = .idle ∧ base.program = [] ∧ decode base.appCmd (.call [0x05]) = .ok .sdCheckRead
    ∧ decode base.appCmd (.call [0x0C]) = .error .unknownSelector ∧ (base.enter .sdAbort).hostStep = .inside (.call .sdAbort) []
    ∧ (base.setHostStep (.inside (.settleLoop .host 1) [])).hostStep = .inside (.settleLoop .host 1) []
    ∧ (∀ j, Place.settleLoop .host 1 = .call j → ([] : List Point) ≠ [])
    ∧ decode base.appCmd (tableCode 8 0x0B) = .ok .sdAbort ∧ decode base.appCmd (tableCode 32 0x1111) = .ok (.cmd17 0) := by
  and_intros <;> first | rfl | nofun

/-- SDMMC1 is bound, and SDMMC2 has a pending interrupt that is routed. -/
def otherPending : State := base.setPeriph .sdmmc2 (armed .single .read 0x500).sdmmc1

theorem witness_InterruptTakenAtAStepBoundary :
    ((armed .single .read 0x500).on [[.irq .sdmmc1]]).sched = [[.irq .sdmmc1]]
    ∧ (armed .single .read 0x500).sdmmc1.sta &&& (armed .single .read 0x500).sdmmc1.mask ≠ 0 ∧ (armed .single .read 0x500).sdmmc1.routed = true
    ∧ (armed .single .read 0x500).irqStep = .idle ∧ (armed .single .read 0x500).session.bound = some .sdmmc1
    ∧ (armed .single .read 0x400).sdmmc1.sta &&& (armed .single .read 0x400).sdmmc1.mask = 0 ∧ base.sdmmc1.routed = false
    ∧ (base.setIrqStep (.inside [])).irqStep ≠ .idle
    ∧ (otherPending.on [[.irq .sdmmc2]]).sched = [[.irq .sdmmc2]] ∧ otherPending.sdmmc2.sta &&& otherPending.sdmmc2.mask ≠ 0
    ∧ otherPending.sdmmc2.routed = true ∧ otherPending.irqStep = .idle ∧ otherPending.session.bound ≠ some .sdmmc2
    ∧ refusalOf (exec .sdAbort (otherPending.on [[.irq .sdmmc2]])) = some .badCall := by
  and_intros <;> decide +kernel

/-- Four bytes that wrap past the top of memory; none. -/
theorem witness_MemReadsWhatMemWriteStored :
    Memory.wf [(5, 6), (9, 1)] = true ∧ 4 ≤ 2 ^ 32 ∧ 0xAABBCCDD < 256 ^ 4 ∧ 0 ≤ 2 ^ 32 ∧ 0 < 256 ^ 0
    ∧ memRead (memWrite [(5, 6)] 0xFFFFFFFE 4 0xAABBCCDD) 0xFFFFFFFE 4 = 0xAABBCCDD ∧ (∀ j < 4, 5 ≠ (0xFFFFFFFE + j) % 2 ^ 32) := by
  and_intros <;> decide +kernel

theorem witness_IdmaMovesTheBuffer :
    (moving .read 0).sdmmc1.idmactrl.getLsbD 0 = true ∧ (moving .read 0).sdmmc1.dataSent = true ∧ (moving .read 0).sdmmc1.dctrl.getLsbD 1 = true
    ∧ Memory.wf (moving .read 0).mem = true ∧ 0 + ([1, 2] : List Byte).length ≤ ((moving .read 0).sdmmc1.dlen.extractLsb' 0 25).toNat
    ∧ (moving .read 1).sdmmc1.dmaCount < ((moving .read 1).sdmmc1.dlen.extractLsb' 0 25).toNat ∧ (moving .write 0).sdmmc1.dctrl.getLsbD 1 = false
    ∧ (moving .write 0).tainted = [] ∧ (moving .write 0).windows = []
    ∧ (applyEnv (.dmaSend .sdmmc1 2) { moving .write 0 with windows := [⟨.write, 0xFFFFFFF0, 16⟩] }).sent = [⟨0, some 0xFFFFFFFF⟩, ⟨0, none⟩]
    ∧ (applyEnv (.dmaStore .sdmmc1 [1, 2]) (moving .read 0)).mem = [(0, 2), (0xFFFFFFFF, 1)] := by
  and_intros <;> decide +kernel

/-- A flag that is set, with each of its causes. -/
theorem witness_EnvSetsOnlyCausedFlags :
    (0x1FE00FFF : Word).getLsbD 6 = true ∧ (moving .read 2).sdmmc1.sta.getLsbD 8 = false
    ∧ (applyEnv (.dataFlags .sdmmc1 0x100) (moving .read 2)).sdmmc1.sta.getLsbD 8 = true
    ∧ (applyEnv (.idmaError .sdmmc1) (moving .read 0)).sdmmc1.sta.getLsbD 27 = true
    ∧ (applyEnv (.cmdFlags .sdmmc1 cmdrend) (base.setPeriph .sdmmc1 { base.sdmmc1 with cmdr := 0x1111 })).sdmmc1.sta.getLsbD 6 = true
    ∧ (applyEnv (.cmdFlags .sdmmc1 cmdsent) (base.setPeriph .sdmmc1 { base.sdmmc1 with cmdr := 0x1000 })).sdmmc1.sta.getLsbD 7 = true := by
  and_intros <;> decide +kernel

/-- `base` with two buffers in use, one read, one write, whose first bytes the card has received, and a third that is stale. -/
def inUse (hooks : Bool) : State :=
  { base with
    cfg := { settings with cacheHooks := hooks }, windows := [⟨.read, 0x100, 4⟩, ⟨.write, 0x200, 4⟩], stale := [⟨.read, 0x300, 4⟩]
    sent := [⟨7, some 0x200⟩, ⟨8, some 0x201⟩, ⟨9, none⟩, ⟨7, some 0x200⟩] }

/-- The address is in no buffer of the list. -/
def outside (l : List Buffer) (a : Nat) : Bool := l.all (fun w => !w.covers a)

/-- The first and the last byte of a read buffer, of a stale one, and the byte after each; a write buffer, and a store without cache hooks. -/
theorem witness_BufferRacesAreDraws :
    (⟨.read, 0x100, 4⟩ : Buffer) ∈ (inUse true).windows ∧ (⟨.write, 0x200, 4⟩ : Buffer) ∈ (inUse true).windows
    ∧ 0x100 ≤ (0x103 : Word).toNat ∧ (0x103 : Word).toNat < 0x100 + 4 ∧ (⟨.read, 0x300, 4⟩ : Buffer) ∈ (inUse true).stale
    ∧ 0x300 ≤ (0x303 : Word).toNat ∧ (0x303 : Word).toNat < 0x300 + 4
    ∧ outside ((inUse true).windows ++ (inUse true).stale) 0x104 = true ∧ outside (inUse true).stale 0x200 = true ∧ Memory.wf (inUse true).mem = true
    ∧ after (runOutside (.load 0x103) (inUse true)) (fun t => (t.draws, t.stale.length)) = some (1, 2)
    ∧ after (runOutside (.store 0x200 5) (inUse true)) (fun t => (t.tainted, t.draws)) = some ([0x200], 2)
    ∧ after (runOutside (.store 0x104 5) (inUse true)) (fun t => (t.tainted, t.mem)) = some ([], [(0x104, 5)])
    ∧ after (runOutside (.store 0x104 5) (inUse false)) State.tainted = some [0x104] := by
  and_intros <;> decide +kernel

/-- The last clause. -/
theorem witness_ResetValues :
    bare.session.bound = some .sdmmc1 ∧ bare.sdmmc1.fifo = [] ∧ bare.sched = [] := by
  and_intros <;> decide +kernel

theorem witness_StepKeepsSound :
    Sound base ∧ goesOn (step { base with program := [.code (.call [0x05])] }) = true ∧ Sound { base with program := [.code (.call [0x05])] }
    ∧ Sound (base.setHostStep (.inside (.scrLoop .host [1, 2]) (Place.path (.scrLoop .host [1, 2])))) ∧ goesOn (step (base.setHostStep (.inside (.scrLoop .host [1, 2]) (Place.path (.scrLoop .host [1, 2]))))) = true := by
  unfold Sound SoundCore
  and_intros <;> decide +kernel

/-- The rows of type 1, and an answer at the last poll of the budget. -/
theorem witness_StatusCommandResult :
    [.cmd7, .cmd12, .cmd13, .cmd16 .b512, .cmd16 .b64, .cmd17 3, .cmd18 3, .cmd24 3, .cmd25 3, .cmd55 .none,
        .cmd55 .rcaArg].map (commandRow base.session) = [some (7, 0xAAAA0000, 1), some (12, 0, 1), some (13, 0xAAAA0000, 1), some (16, 512, 1),
        some (16, 64, 1), some (17, 3, 1), some (18, 3, 1), some (24, 3, 1), some (25, 3, 1), some (55, 0, 1), some (55, 0xAAAA0000, 1)]
    ∧ [.acmd6 .w1, .acmd6 .w4, .acmd13, .acmd51, .transmitCommand 55 7 1].map (commandRow base.session)
      = [some (6, 0, 1), some (6, 2, 1), some (13, 0, 1), some (51, 0, 1), some (55, 7, 1)]
    ∧ base.session.bound = some .sdmmc1 ∧ 2 < base.cfg.cmdBudget
    ∧ (base.on (quiet (4 + 2) ++ [shortAnswer .sdmmc1 13 0x900 cmdrend])).sched = quiet (4 + 2) ++ [shortAnswer .sdmmc1 13 0x900 cmdrend]
    ∧ cmdrend &&& respWait ≠ 0
    ∧ after (exec .cmd13 (base.on (quiet (4 + 2) ++ [shortAnswer .sdmmc1 13 0x900 cmdrend]))) State.result = some (.err .ok) := by
  and_intros <;> decide +kernel

theorem witness_ProbeCommandResult :
    [.cmd8, .acmd41, .transmitCommand 55 7 3].map (commandRow base.session) = [some (8, 0x1AA, 3), some (41, 0xC0100000, 3), some (55, 7, 3)]
    ∧ base.session.bound = some .sdmmc1 ∧ 0 < base.cfg.cmdBudget ∧ ctimeout &&& respWait ≠ 0
    ∧ after (exec .cmd8 (base.on (quiet (4 + 0) ++ [shortAnswer .sdmmc1 63 0 ctimeout]))) State.result = some (.err .timeout) := by
  and_intros <;> decide +kernel

theorem witness_LongCommandResult :
    [.cmd2, .cmd9, .transmitCommand 55 7 2].map (commandRow base.session) = [some (2, 0, 2), some (9, 0xAAAA0000, 2), some (55, 7, 2)]
    ∧ base.session.bound = some .sdmmc1 ∧ 2 < base.cfg.cmdBudget ∧ ccrcfail &&& respWait ≠ 0
    ∧ after (exec .cmd9 (base.on (quiet (4 + 2) ++ [longAnswer .sdmmc1 csdWords ccrcfail]))) State.result = some (.err .crcFail) := by
  and_intros <;> decide +kernel

theorem witness_NoResponseCommandResult :
    [.cmd0, .transmitCommand 55 7 0].map (commandRow base.session) = [some (0, 0, 0), some (55, 7, 0)] ∧ base.session.bound = some .sdmmc1
    ∧ 2 < base.cfg.cmdBudget
    ∧ after (exec .cmd0 (base.on (quiet (4 + 2) ++ [[.cmdFlags .sdmmc1 cmdsent, .cmdEnd .sdmmc1]]))) State.result = some (.err .ok) := by
  and_intros <;> decide +kernel

theorem witness_RelativeAddressCommandResult :
    [.cmd3, .transmitCommand 55 7 6].map (commandRow base.session) = [some (3, 0, 6), some (55, 7, 6)] ∧ base.session.bound = some .sdmmc1
    ∧ 0 < base.cfg.cmdBudget ∧ busyd0end &&& respWait ≠ 0
    ∧ after (exec .cmd3 (base.on (quiet (4 + 0) ++ [shortAnswer .sdmmc1 3 0xBBBB0500 busyd0end]))) (fun t => t.session.rca) = some (some 0xBBBB) := by
  and_intros <;> decide +kernel

/-- V-TC-3 with the budget of three: the flag comes after the last poll, data flags and a response before it. -/
def lateFlag : List (List Move) :=
  quiet 3 ++ [[.dataFlags .sdmmc1 0x100, .respond .sdmmc1 .resp1 5]] ++ quiet 3 ++ [[.cmdFlags .sdmmc1 cmdrend]]

/-- No schedule; `lateFlag`, whose flag no poll sees. -/
theorem witness_SilentCommandTimesOut :
    commandRow base.session .acmd51 = some (51, 0, 1) ∧ base.session.bound = some .sdmmc1 ∧ base.sched = []
    ∧ after (exec .acmd51 base) State.result = some (.err .timeout)
    ∧ NoInterrupt (base.on lateFlag) ∧ ((lateFlag.drop 1).take (3 + base.cfg.cmdBudget)).flatten
      = [.dataFlags .sdmmc1 0x100, .respond .sdmmc1 .resp1 5]
    ∧ after (exec .acmd51 (base.on lateFlag)) (fun t => (t.result, t.sched)) = some (.err .timeout, []) := by
  unfold NoInterrupt
  and_intros <;> decide +kernel

theorem witness_CommandEndsCleared :
    commandRow base.session .cmd0 = some (0, 0, 0) ∧ base.session.bound = some .sdmmc1 ∧ goesOn (exec .cmd0 base) = true ∧ (55 : Word) ∈ issuedCommands
    ∧ responseTypeAdmitted (5 : Word).toInt = false ∧ responseTypeAdmitted (0xFFFFFFFF : Word).toInt = false := by
  and_intros <;> decide +kernel

/-- 20 R91: a store to a byte that the IDMA has moved already makes what the card has received of it a draw. -/
theorem test_store_after_the_send :
    (hostStore 0x200 5 (inUse true)).sent
      = [⟨Config.freeByte 0, some 0x200⟩, ⟨8, some 0x201⟩, ⟨9, none⟩, ⟨Config.freeByte 1, some 0x200⟩]
    ∧ (hostStore 0x202 5 (inUse true)).sent = (inUse true).sent ∧ ((inUse true).reportEnd .write).sent.map SentByte.racing = List.replicate 4 none
    ∧ ((inUse true).reportEnd .read).sent = (inUse true).sent := by
  and_intros <;> rfl

/-- 10 R67: `ENV` may clear `DTEN` and still set the flags of a command sent with `CMDTRANS`. -/
theorem test_data_liberty_goes_on :
    (applyEnv (.dataFlags .sdmmc1 0x100) (applyEnv (.dtenClear .sdmmc1) (moving .read 2))).sdmmc1.sta = 0x100
    ∧ (applyEnv (.dataFlags .sdmmc1 0x100) (applyEnv (.dataPhaseEnd .sdmmc1) (moving .read 2))).sdmmc1.sta = 0
    ∧ (applyEnv (.dtenClear .sdmmc1) (moving .read 2)).sdmmc1.dctrl = 0x92 &&& ~~~1 := by decide +kernel

/-- A store of the IDMA inside the buffer of a transfer, and an address outside it. -/
theorem witness_CommandsReturn :
    (∀ j : Sdmmc, ∀ k < ((moving .read 0).periph j |>.dlen.extractLsb' 0 25).toNat, 5 ≠ (((moving .read 0).periph j).idmabase0.toNat + k) % 2 ^ 32)
    ∧ after (exec .cmd12 ((moving .read 0).on [[.dmaStore .sdmmc1 [1, 2]]])) State.mem = some [(0, 2), (0xFFFFFFFF, 1)]
    ∧ commandRow base.session .cmd3 = some (3, 0, 6) ∧ base.session.bound = some .sdmmc1 ∧ NoInterrupt (base.on (ans 3 0xBBBB0500))
    ∧ NoInterrupt (base.on [[.dmaStore .sdmmc1 [1], .pin true]]) ∧ (∀ slot ∈ (ans 3 0xBBBB0500), ∀ m ∈ slot, ∀ j bytes, m ≠ .dmaStore j bytes) := by
  unfold NoInterrupt
  and_intros <;> try decide +kernel
  · intro j; cases j <;> decide +kernel
  intro slot h m hm j bytes e
  subst e
  simp [ans, shortScript, quiet, shortAnswer] at h
  rcases h with rfl | rfl | rfl <;> simp at hm

/-- `base` with the card present and no controller bound. -/
def unboundCard : State :=
  { base with cfg := { settings with detect := true }, pin := settings.detectLevel, session := { base.session with bound := none } }

theorem witness_UnboundAccessFaults :
    State.reset.session.bound = none ∧ NoInterrupt State.reset ∧ bare.session.bound = some .sdmmc1 ∧ bare.sched = []
    ∧ commandRow State.reset.session .cmd0 = some (0, 0, 0) ∧ faultOf (exec .cmd0 { State.reset with cfg := settings }) = some .unbound
    ∧ faultOf (exec .powerOn { State.reset with cfg := settings }) = some .unbound ∧ settings.detect = false ∧ (1023 : Word).toNat < 1024
    ∧ (63 : Word).toNat < 64
    ∧ (∀ slot ∈ (unboundCard.on [[], [], [.cmdEnd .sdmmc1], [.pin false]]).sched.take 3, ∀ m ∈ slot, ∀ level, m ≠ .pin level)
    ∧ [Instr.sdInit 2, .sdGetCardStatus 0, .classify 63 5, .sdAbort].map
      (fun x => faultOf (exec x { State.reset with cfg := settings })) = List.replicate 4 (some .unbound)
    ∧ faultOf (exec (.sdInit 1023) unboundCard) = some .unbound ∧ unboundCard.cfg.detect = true ∧ unboundCard.pin = unboundCard.cfg.detectLevel
    ∧ unboundCard.session.bound = none ∧ unboundCard.session.cardType = some .highCapacity ∧ unboundCard.session.rca = some 0xAAAA
    ∧ faultOf (exec .sdGetStatus unboundCard) = some .unbound ∧ faultOf (exec (.wideBusOperationConfig .w1) unboundCard) = some .unbound
    ∧ faultOf (exec (transferCall .write 0xFFFFFFFF 0x24000000 512 1) unboundCard) = some .unbound
    ∧ (unboundCard.setXfer { Transfer.reset with error := .dataTimeout, txCplt := true }).xfer.error ≠ .ok
    ∧ faultOf (exec (checkCall .write) (unboundCard.setXfer { Transfer.reset with error := .dataTimeout, txCplt := true })) = some .unbound := by
  unfold NoInterrupt
  and_intros <;> decide +kernel

/-- `bare` with the power on. -/
def poweredBare : State := bare.setPeriph .sdmmc1 { bare.sdmmc1 with power := 3 }

theorem witness_UnwrittenSessionFaults :
    bare.session.rca = none ∧ bare.session.cardType = none ∧ bare.session.capArg = none
    ∧ (bare.card .highCapacity).session.cardType = some .highCapacity ∧ (bare.card .highCapacity).session.csd.value = none ∧ bare.session.cid.value = none
    ∧ NoInterrupt bare ∧ bare.xfer.rxCplt = false ∧ bare.xfer.txCplt = false ∧ 1 ≤ (65535 : Word).toNat ∧ (65535 : Word).toNat ≤ 65535
    ∧ faultOf (exec (transferCall .write 0xFFFFFFFF 1 512 65535) bare) = some .unwrittenSession
    ∧ bare.session.bound = some .sdmmc1 ∧ faultOf (exec .sdAbort bare) = some .unwrittenSession
    ∧ NoInterrupt (bare.setXfer { Transfer.reset with error := .dataTimeout, txCplt := true })
    ∧ (bare.setXfer { Transfer.reset with error := .dataTimeout, txCplt := true }).xfer.error ≠ .ok
    ∧ faultOf (exec (checkCall .write) (bare.setXfer { Transfer.reset with error := .dataTimeout, txCplt := true })) = some .unwrittenSession
    ∧ decodeCardStatus 0x900 = .ok
    ∧ faultOf (exec .findSCR (bare.on (shortScript .sdmmc1 16 0x900))) = some .unwrittenSession
    ∧ faultOf (exec .sendSDStatus (bare.on (shortScript .sdmmc1 16 0x900))) = some .unwrittenSession
    ∧ faultOf (exec (.sdGetCardStatus 0) (bare.on (shortScript .sdmmc1 16 0x900))) = some .unwrittenSession
    ∧ bare.sdmmc1.resp1.getLsbD 25 = false
    ∧ faultOf (exec (.wideBusOperationConfig .w4) ((bare.card .standardV1_1).on (quiet 1 ++ shortScript .sdmmc1 16 0x900))) = some .unwrittenSession
    ∧ TransferAdmitted (bare.card .highCapacity) .highCapacity 100 0x24000000 1
    ∧ faultOf (exec (transferCall .read 100 0x24000000 512 1) ((bare.card .highCapacity).on (admissionScript ++ shortScript .sdmmc1 16 0x900
        ++ armScript settings.cacheHooks ++ quiet 4 ++ [shortAnswer .sdmmc1 0 0 ccrcfail] ++ quiet 2))) = some .unwrittenSession
    ∧ poweredBare.sdmmc1.power.extractLsb' 0 2 ≠ 0 ∧ poweredBare.session.cardType = none
    ∧ faultOf (exec .initializeCard (poweredBare.on (quiet 1 ++ captureScript .sdmmc1 ⟨1, 2, 3, 4⟩))) = some .unwrittenSession
    ∧ (poweredBare.card .unknown).session.rca = none
    ∧ faultOf (exec .initializeCard ((poweredBare.card .unknown).on (quiet 1 ++ captureScript .sdmmc1 ⟨1, 2, 3, 4⟩))) = some .unwrittenSession := by
  unfold NoInterrupt TransferAdmitted
  and_intros <;> decide +kernel

theorem witness_ClassifyCascade :
    base.session.bound = some .sdmmc1 ∧ base.sched = [] ∧ (63 : Word).toNat < 64 ∧ (0xFFFFFFFF : Word).toInt ≤ 0 ∧ (0 : Word).toInt ≤ 0
    ∧ goesOn (exec (.classify 63 6) base) = true := by
  and_intros <;> decide +kernel

/-- The first and the last row of the table. -/
theorem witness_CardStatusPriority :
    (0x02001FF7 : Word) &&& 0xFDFFE008 = 0 ∧ cardStatusTable = [] ++ (31, .addrOutOfRange) :: cardStatusTable.drop 1
    ∧ (0xFDFFE008 : Word).getLsbD 31 = true ∧ cardStatusTable = cardStatusTable.take 18 ++ (3, .akeSeqError) :: []
    ∧ (∀ x ∈ cardStatusTable.take 18, (0x02001FFF : Word).getLsbD x.1 = false) ∧ (0x02001FFF : Word).getLsbD 3 = true := by
  and_intros <;> decide +kernel

theorem witness_RelativeAddressDecoder :
    (0xFFFF1FFF : Word) &&& 0x0000E000 = 0 ∧ (0x0000E000 : Word).getLsbD 13 = true
    ∧ (0x0000C000 : Word).getLsbD 13 = false ∧ (0x0000C000 : Word).getLsbD 14 = true
    ∧ (0x00008000 : Word).getLsbD 13 = false ∧ (0x00008000 : Word).getLsbD 14 = false ∧ (0x00008000 : Word).getLsbD 15 = true := by
  and_intros <;> decide +kernel

theorem witness_OnlyRelativeAddressWritesRca :
    Instr.mayLatchRca .cmd13 = false ∧ goesOn (exec .cmd13 base) = true ∧ goesOn (exec .cmd3 base) = true
    ∧ after (exec .cmd3 base) State.result ≠ some (.err .ok) ∧ (base.setHostStep (.inside (.settleLoop .host 1) (Place.path (.settleLoop .host 1)))).hostStep ≠ .idle
    ∧ HostStep.sound (.inside (.settleLoop .host 1) (Place.path (.settleLoop .host 1))) = true ∧ goesOn (step (base.setHostStep (.inside (.settleLoop .host 1) (Place.path (.settleLoop .host 1))))) = true := by
  and_intros <;> decide +kernel

theorem witness_InitializeLowLevelBinds :
    base.hostStep = .idle ∧ 2 ≤ (2 : Word).toNat ∧ base.xfer.rxCplt = false ∧ base.xfer.txCplt = false
    ∧ (base.on (admissionScript ++ quiet 2 ++ [])).sched = admissionScript ++ quiet 2 ++ [] ∧ NoInterrupt (armed .single .read 0)
    ∧ (armed .single .read 0).xfer.rxCplt = true ∧ (armed .single .write 0).xfer.txCplt = true := by
  unfold NoInterrupt
  and_intros <;> decide +kernel

/-- `bare` with a presence pin that is low. -/
def pinned : State := { bare with cfg := { settings with detect := true } }

theorem witness_IsDetectedReadsThePin :
    bare.cfg.detect = false ∧ pinned.cfg.detect = true ∧ (pinned.on [[.pin true]]).sched = [[.pin true]] := by
  and_intros <;> decide +kernel

/-- The select is not answered; the card is locked. The stages before: `test_sdInit_stages`. -/
theorem witness_InitStopsAtAFailingStage :
    (1023 : Word).toNat < 1024 ∧ (armed .single .read 0).xfer.rxCplt = true ∧ pinned.xfer.rxCplt = false ∧ pinned.xfer.txCplt = false
    ∧ pinned.cfg.detect = true ∧ pinned.pin ≠ pinned.cfg.detectLevel ∧ (pinned.on (admissionScript ++ quiet 1 ++ [])).sched = admissionScript ++ quiet 1 ++ []
    ∧ NoInterrupt (armed .single .read 0)
    ∧ bare.session.bound = some .sdmmc1 ∧ bare.xfer.rxCplt = false ∧ bare.xfer.txCplt = false ∧ bare.cfg.detect = false
    ∧ bare.sdmmc1.widStale = false ∧ bare.delayRuns = false ∧ decodeCardStatus 0x920 = .ok ∧ (0xC0FF8000 : Word).getLsbD 31 = true ∧ 0 + 1 < bare.cfg.maxVoltTrial
    ∧ (0xAAAA0500 : Word) &&& 0xE000 = 0 ∧ decodeCardStatus 0x02000700 = .ok ∧ (0x02000700 : Word).getLsbD 25 = true
    ∧ after (exec (.sdInit 2) (bare.on (admissionScript ++ quiet 3 ++ powerOnScript .sdmmc1 0x920 true [0xC0FF8000] ++ identifyScript .sdmmc1 cidWords csdWords 0xAAAA0500
        ++ ans 7 0x02000700 ++ quiet 3))) (fun t => (t.result, t.sdmmc1.clkcr, t.session.scr)) = some (.bool false, 2, .unwritten) := by
  unfold NoInterrupt
  and_intros <;> decide +kernel

/-- Ready on the seventh of eight trials (V-PO-9). -/
theorem witness_PowerOnNegotiates :
    bare.session.bound = some .sdmmc1 ∧ bare.delayRuns = false ∧ decodeCardStatus 0x120 = .ok ∧ (∀ o ∈ List.replicate 6 (0x00FF8000 : Word), o.getLsbD 31 = false)
    ∧ (0xC0FF8000 : Word).getLsbD 31 = true ∧ (List.replicate 6 (0x00FF8000 : Word)).length + 1 < bare.cfg.maxVoltTrial
    ∧ after (exec .powerOn (bare.on (powerOnScript .sdmmc1 0x120 false (List.replicate 6 0x00FF8000 ++ [0xC0FF8000]))))
      (fun t => (t.result, t.session.capArg)) = some (.err .ok, some 0) := by
  and_intros <;> first
    | (intro o h; simp at h; subst h; decide)
    | decide +kernel

/-- The ceiling and the last trial; a CMD55 that fails on the eighth of eight trials, and before the loop. -/
theorem witness_PowerOnFailures :
    bare.session.bound = some .sdmmc1 ∧ bare.delayRuns = false ∧ decodeCardStatus 0x120 = .ok ∧ (∀ o ∈ List.replicate 8 (0x00FF8000 : Word), o.getLsbD 31 = false)
    ∧ (List.replicate 8 (0x00FF8000 : Word)).length = bare.cfg.maxVoltTrial
    ∧ (List.replicate 7 (0x00FF8000 : Word)).length + 1 = bare.cfg.maxVoltTrial ∧ (0xC0FF8000 : Word).getLsbD 31 = true
    ∧ decodeCardStatus 0x00400120 ≠ .ok ∧ (List.replicate 7 (0x00FF8000 : Word)).length < bare.cfg.maxVoltTrial
    ∧ after (exec .powerOn (bare.on (powerOnScript .sdmmc1 0x120 true (List.replicate 7 0x00FF8000) ++ ans 55 0x00400120)))
      (fun t => (t.result, t.session.cardType)) = some (.err .illegalCmd, some .standardV2_0)
    ∧ after (exec .powerOn (bare.on (probedScript .sdmmc1 false ++ ans 55 0x00400120))) (fun t => (t.result, t.session.cardType))
      = some (.err .illegalCmd, some .standardV1_1) := by
  and_intros <;> first
    | (intro o h; simp at h; subst h; decide)
    | decide +kernel

theorem witness_InitializeCardCaptures :
    base.session.bound = some .sdmmc1 ∧ base.session.cardType = some .highCapacity ∧ base.sdmmc1.power.extractLsb' 0 2 ≠ 0
    ∧ (0xBBBB1FFF : Word) &&& 0xE000 = 0 ∧ (base.card .unknown).session.cardType = some .unknown ∧ (base.card .unknown).session.rca = some 0xAAAA
    ∧ after (exec .initializeCard ((base.card .unknown).on (quiet 1 ++ captureScript .sdmmc1 cidWords ++ captureScript .sdmmc1 csdWords)))
      (fun t => (t.result, t.session.rca)) = some (.err .ok, some 0xAAAA) := by
  and_intros <;> decide +kernel

/-- No power; CMD2 with a CRC error; CMD3 with an error bit; CMD9 with a CRC error. -/
theorem witness_InitializeCardFailures :
    bare.sdmmc1.power.extractLsb' 0 2 = 0 ∧ (bare.on (quiet 1 ++ [])).sched = quiet 1 ++ [] ∧ base.sdmmc1.power.extractLsb' 0 2 ≠ 0 ∧ base.sched = []
    ∧ base.session.bound = some .sdmmc1 ∧ base.session.cardType = some .highCapacity ∧ (0xBBBB8000 : Word) &&& 0xE000 ≠ 0
    ∧ (0xBBBB0500 : Word) &&& 0xE000 = 0
    ∧ after (exec .initializeCard (base.on (quiet 1 ++ quiet 4 ++ [longAnswer .sdmmc1 csdWords ccrcfail] ++ quiet 2)))
      (fun t => (t.result, t.session.cid)) = some (.err .crcFail, .written cidWords)
    ∧ after (exec .initializeCard (base.on (quiet 1 ++ captureScript .sdmmc1 csdWords ++ ans 3 0xBBBB8000)))
      (fun t => (t.result, t.session.cid, t.session.rca)) = some (.err .comCrcFailed, .written csdWords, some 0xAAAA)
    ∧ after (exec .initializeCard (base.on (quiet 1 ++ captureScript .sdmmc1 csdWords ++ ans 3 0xBBBB0500 ++ quiet 4
        ++ [longAnswer .sdmmc1 cidWords ccrcfail] ++ quiet 2))) (fun t => (t.result, t.session.csd, t.session.rca))
      = some (.err .crcFail, .written csdWords, some 0xBBBB) := by
  and_intros <;> decide +kernel

/-- P1; `test_sdInit` runs it. -/
theorem witness_InitSucceeds :
    (1023 : Word).toNat < 1024 ∧ bare.session.bound = some .sdmmc1 ∧ bare.xfer.rxCplt = false ∧ bare.xfer.txCplt = false ∧ bare.cfg.detect = false
    ∧ bare.sdmmc1.fifo = [] ∧ bare.sdmmc1.sta &&& pollEnd = 0 ∧ bare.sdmmc1.idmaen = false ∧ bare.sdmmc1.widStale = false ∧ bare.delayRuns = false
    ∧ decodeCardStatus 0x920 = .ok
    ∧ (∀ o ∈ [(0x00FF8000 : Word)], o.getLsbD 31 = false) ∧ (0xC0FF8000 : Word).getLsbD 31 = true
    ∧ [(0x00FF8000 : Word)].length + 1 < bare.cfg.maxVoltTrial ∧ (0xAAAA0500 : Word) &&& 0xE000 = 0 ∧ decodeCardStatus 0x700 = .ok
    ∧ (0x700 : Word).getLsbD 25 = false ∧ widthSupported ⟨bswap 0x3502, bswap 0⟩ bare.cfg.busWidth = true := by
  and_intros <;> first
    | (intro o h; simp at h; subst h; decide)
    | decide +kernel

theorem witness_PowerStaysOn :
    base.session.bound = some .sdmmc1 ∧ base.sdmmc1.power &&& 3 = 3 ∧ goesOn (exec .powerOn base) = true
    ∧ HostStep.sound (.inside (.settleLoop .host 1) (Place.path (.settleLoop .host 1))) = true
    ∧ goesOn (step (base.setHostStep (.inside (.settleLoop .host 1) (Place.path (.settleLoop .host 1))))) = true := by
  and_intros <;> decide +kernel

theorem witness_CsdDecoder :
    (base.card .standardV1_1).session.cardType = some .standardV1_1 ∧ base.session.cardType = some .highCapacity
    ∧ (base.card .secureDigitalIO).session.cardType = some .secureDigitalIO ∧ base.session.csd.value = some csdWords := by
  and_intros <;> decide +kernel

theorem witness_CidDecoder : base.session.cid.value = some cidWords := by decide +kernel

theorem witness_GetCardInfo :
    base.session.cardType = some .highCapacity ∧ base.session.rca = some 0xAAAA ∧ base.session.csd.value = some csdWords ∧ base.session.cid.value = some cidWords
    ∧ bare.session.cardType = none ∧ (bare.card .standardV1_1).session.csd.value = none := by
  and_intros <;> decide +kernel

/-- V-WB-6, V-WB-7; a read that ends without a word. -/
theorem witness_FindScrReadsTheScr :
    base.session.bound = some .sdmmc1 ∧ base.session.rca = some 0xAAAA
    ∧ base.sdmmc1.fifo = [] ∧ base.sdmmc1.sta &&& pollEnd = 0 ∧ base.sdmmc1.idmaen = false ∧ decodeCardStatus 0x920 = .ok
    ∧ (0x00000008 : Word) &&& 0x2A ≠ 0
    ∧ after (exec .findSCR (base.on (ans 16 0x920 ++ ans 55 0x920 ++ quiet 3 ++ ans 51 0x920 ++ [[.dataFlags .sdmmc1 0x0A,
        .dataPhaseEnd .sdmmc1]] ++ quiet 1))) (fun t => (t.result, t.session.scr)) = some (.err .dataTimeout, .unwritten)
    ∧ after (exec .findSCR (base.on (ans 16 0x920 ++ ans 55 0x920 ++ quiet 3 ++ ans 51 0x920 ++ [[.dataFlags .sdmmc1 dataend,
        .dataPhaseEnd .sdmmc1]] ++ quiet 2))) (fun t => (t.result, t.draws)) = some (.err .ok, 2) := by
  and_intros <;> decide +kernel

/-- `HOST` in a polled read of SDMMC1: the FIFO empty, the data phase open. -/
def polling (p : Place) : State :=
  (base.setPeriph .sdmmc1 { base.sdmmc1 with sta := rxfifoe, dctrl := 0x33 }).setHostStep (.inside p p.path)

/-- `HOST` in the settle loop of `SD_Init`, the new width written, the old one read. -/
def settling : State :=
  (base.setPeriph .sdmmc1 { base.sdmmc1 with clkcr := 0x4002, widStale := true }).setHostStep (.inside (.settleLoop .sdInit 1) (Place.path (.settleLoop .sdInit 1)))

/-- `HOST` in the `Delay` of `powerOn`. -/
def delaying (caller : PowerCaller) : State := { base with delayRuns := true, hostStep := .inside (.delay caller) (Place.path (.delay caller)) }

/-- The holds, a data error for `SD_Init`, the end of data for `SD_GetCardStatus` and `wideBusOperationConfig`, the settled width. -/
theorem witness_UnboundedWaitsHold :
    (polling (.scrLoop .host [1])).session.bound = some .sdmmc1 ∧ (polling (.scrLoop .host [1])).sched = []
    ∧ (polling (.scrLoop .host [1])).sdmmc1.sta &&& pollEnd = 0 ∧ (polling (.scrLoop .host [1])).sdmmc1.sta.getLsbD 19 = true
    ∧ ([1, 2] : List Word).length = 2 ∧ ssrWords.length = 16 ∧ (polling (.scrLoop .host [1])).sdmmc1.dctrl.getLsbD 0 = true
    ∧ (polling (.scrLoop .host [1])).sdmmc1.idmactrl.getLsbD 0 = false ∧ (0x20 : Word) &&& 0x2A ≠ 0
    ∧ after (step (polling (.scrLoop .host [1]))) (fun t => t == polling (.scrLoop .host [1])) = some true
    ∧ after (step ((polling (.scrLoop (.wideBus .w4 .sdInit) [])).on ([.dataFlags .sdmmc1 0x20] :: [] :: []))) State.result = some (.bool false)
    ∧ after (step ((polling (.ssrLoop (.getCardStatus 7) ssrWords)).on ([.dataFlags .sdmmc1 dataend] :: [] :: [])))
      (fun t => (t.result, t.session.sdStatus)) = some (.err .ok, some ⟨2, 0, 0, 0x400, 4, 0, 9, 0, 0, 0⟩)
    ∧ base.session.rca = some 0xAAAA ∧ decodeCardStatus 0x920 = .ok ∧ (bswap 0x3502).getLsbD 18 = true
    ∧ after (step ((polling (.scrLoop (.wideBus .w4 .host) [0x3502, 0])).on ([.dataFlags .sdmmc1 dataend, .dataPhaseEnd .sdmmc1] :: []
        :: (ans 55 0x920 ++ ans 6 0x920 ++ quiet 3)))) (fun t => (t.result, t.sdmmc1.clkcr)) = some (.err .ok, 0x4002)
    ∧ settling.sdmmc1.clkcr.extractLsb' 14 2 = 1 ∧ settling.sdmmc1.widPrev ≠ 1 ∧ after (step settling) (fun t => t == settling) = some true
    ∧ after (step (settling.on (quiet 2 ++ [[.staleWidbus .sdmmc1 false]]))) State.result = some (.bool true)
    ∧ (delaying (.sdInit 2)).delayRuns = true ∧ (delaying (.sdInit 2)).sched = []
    ∧ after (step (delaying (.sdInit 2))) (fun t => t == delaying (.sdInit 2)) = some true
    ∧ after (step ((delaying (.sdInit 2)).on [[.delayRuns false]])) (fun t => (t.result, t.session.cardType)) = some (.bool false, some .standardV1_1)
    ∧ after (step ((delaying .host).on [[.delayRuns false]])) (fun t => (t.result, t.session.capArg)) = some (.err .timeout, some 0) := by
  and_intros <;> decide +kernel

theorem witness_WideBusSwitchesWidth :
    base.session.bound = some .sdmmc1 ∧ base.session.cardType = some .highCapacity ∧ base.session.rca = some 0xAAAA
    ∧ base.sdmmc1.fifo = [] ∧ base.sdmmc1.sta &&& pollEnd = 0 ∧ base.sdmmc1.idmaen = false ∧ decodeCardStatus 0x920 = .ok
    ∧ base.sdmmc1.resp1.getLsbD 25 = false ∧ (bswap 0x3502).getLsbD 18 = true ∧ (bswap 0x3101).getLsbD 16 = true ∧ base.sdmmc1.widStale = false
    ∧ base.sdmmc1.clkcr.extractLsb' 14 2 ≠ 1 := by
  and_intros <;> decide +kernel

theorem witness_WideBusTurnedAway :
    base.session.bound = some .sdmmc1 ∧ base.session.cardType = some .highCapacity ∧ BusMode.w4 ≠ .w8
    ∧ (seen 0 0 0x02000900).sdmmc1.resp1.getLsbD 25 = true ∧ base.sdmmc1.resp1.getLsbD 25 = false ∧ base.session.rca = some 0xAAAA
    ∧ base.sdmmc1.fifo = [] ∧ base.sdmmc1.sta &&& pollEnd = 0 ∧ base.sdmmc1.idmaen = false ∧ decodeCardStatus 0x920 = .ok
    ∧ (bswap 0x3101).getLsbD 18 = false ∧ (bswap 0x3002).getLsbD 16 = false := by
  and_intros <;> decide +kernel

theorem witness_WidthChangesOnlyOnSuccess :
    base.session.bound = some .sdmmc1
    ∧ after (exec (.wideBusOperationConfig .w4) (base.on (wideScript .sdmmc1 0x920 0x3502 0)))
      (fun t => (t.hostStep, t.result)) = some (.idle, .err .ok)
    ∧ after (exec (.wideBusOperationConfig .w4) base) (fun t => (t.hostStep, t.result)) = some (.idle, .err .timeout)
    ∧ after (step ((polling (.scrLoop (.wideBus .w1 .sdInit) [])).on ([.dataFlags .sdmmc1 0x20] :: [] :: [])))
      (fun t => (t.hostStep, t.result)) = some (.idle, .bool false)
    ∧ after (step (settling.on (quiet 2 ++ [[.staleWidbus .sdmmc1 false]]))) (fun t => (t.hostStep, t.result)) = some (.idle, .bool true) := by
  and_intros <;> decide +kernel

theorem witness_TransferOperandChecks :
    NoInterrupt (armed .single .read 0) ∧ NoInterrupt base ∧ (armed .single .read 0).xfer.rxCplt = true ∧ (armed .single .write 0).xfer.txCplt = true ∧ base.xfer.rxCplt = false ∧ base.xfer.txCplt = false
    ∧ (513 : Word).toNat ≠ 512 ∧ (0 : Word).toNat = 0 ∧ 65535 < (65536 : Word).toNat ∧ 1 ≤ (65535 : Word).toNat ∧ (65535 : Word).toNat ≤ 65535
    ∧ (base.card .standardV2_0).session.cardType = some .standardV2_0 ∧ 2 ^ 23 ≤ (0x00800000 : Word).toNat ∧ (0x007FFFFF : Word).toNat < 2 ^ 23
    ∧ (0x24000002 : Word).toNat % 4 ≠ 0 ∧ (0x2407FE04 : Word).toNat % 4 = 0
    ∧ 511 < 512 * (1 : Word).toNat ∧ inDmaRegion settings ((0x2407FE04 : Word).toNat + 511) = false
    ∧ (armed .single .write 0x100).xfer.operation = some ⟨.single, .write⟩ ∧ (armed .single .write 0x100).sdmmc1.sta.getLsbD 8 = true
    ∧ (armed .single .write 0x100).sdmmc1.mask.getLsbD 8 = true ∧ (armed .single .write 0x100).sdmmc1.routed = true
    ∧ (armed .single .write 0x100).irqStep = .idle
    ∧ refusalOf (exec (transferCall .read 0 0 513 1) ((armed .single .write 0x100).on (quiet 0 ++ [[.irq .sdmmc1]]))) = some .blockSizeNot512
    ∧ refusalOf (exec (transferCall .read 0 0 513 1) ((armed .single .write 0x100).on (quiet 2 ++ [[.irq .sdmmc1]]))) = some .transferOutstanding := by
  unfold NoInterrupt
  and_intros <;> decide +kernel

/-- V-X-9: the last block address that is not refused. -/
theorem witness_TransferArms :
    base.session.bound = some .sdmmc1 ∧ TransferAdmitted base .highCapacity 100 0x2407FC00 2
    ∧ TransferAdmitted (base.card .standardV2_0) .standardV2_0 0x007FFFFF 0x24000000 1 ∧ decodeCardStatus 0x900 = .ok
    ∧ after (exec (transferCall .write 100 0x2407FC00 512 2) (base.on (admissionScript ++ shortScript .sdmmc1 16 0x900 ++ armScript false
        ++ shortScript .sdmmc1 25 0x900))) (fun t => (outcome t, t.windows)) = some ((.err .ok, 100, 0x159), [⟨.write, 0x2407FC00, 1024⟩])
    ∧ after (exec (transferCall .read 0x007FFFFF 0x24000000 512 1) ((base.card .standardV2_0).on (admissionScript ++ shortScript .sdmmc1 16 0x900
        ++ armScript false ++ shortScript .sdmmc1 17 0x900))) outcome = some (.err .ok, 0xFFFFFE00, 0x151) := by
  unfold TransferAdmitted
  and_intros <;> decide +kernel

/-- The tenth attempt accepted; the tenth failed (`TransferAdmitted` as in `witness_TransferArms`). -/
theorem witness_TransferRetries :
    base.session.bound = some .sdmmc1 ∧ base.session.rca = some 0xAAAA ∧ decodeCardStatus 0x900 = .ok ∧ 9 ≤ 9
    ∧ after (exec (transferCall .read 100 0x24000000 512 1) (base.on (admissionScript ++ shortScript .sdmmc1 16 0x900 ++ armScript false
        ++ (List.replicate 9 (failedAttempt .sdmmc1 0x900)).flatten ++ shortScript .sdmmc1 17 0x900))) (fun t => (t.result, t.xfer.rxCplt))
        = some (.err .ok, true)
    ∧ after (exec (transferCall .read 100 0x24000000 512 1) (base.on (admissionScript ++ shortScript .sdmmc1 16 0x900 ++ armScript false
        ++ (List.replicate 9 (failedAttempt .sdmmc1 0x900)).flatten ++ quiet 4 ++ [shortAnswer .sdmmc1 0 0 ccrcfail] ++ quiet 3)))
        (fun t => (t.result, t.xfer.rxCplt)) = some (.err .crcFail, false) := by
  and_intros <;> decide +kernel

theorem witness_SilentTransferGivesUp :
    base.session.bound = some .sdmmc1 ∧ base.session.rca = some 0xAAAA ∧ TransferAdmitted base .highCapacity 100 0x24000000 1
    ∧ decodeCardStatus 0x900 = .ok ∧ base.sched = []
    ∧ after (exec (transferCall .read 100 0x24000000 512 1) base) (fun t => (t.result, t.xfer)) = some (.err .timeout, base.xfer) := by
  unfold TransferAdmitted
  and_intros <;> decide +kernel

/-- V-CK-1, 2, 6. -/
theorem witness_CheckCallPolls :
    base.sched = [] ∧ inProgress .read base.xfer = false ∧ base.xfer.error = .ok ∧ inProgress .write (armed .single .write 0).xfer = true
    ∧ after (exec (checkCall .write) (inUse true)) (fun t => (t.windows, t.sent)) = some ([⟨.read, 0x100, 4⟩],
      [⟨7, none⟩, ⟨8, none⟩, ⟨9, none⟩, ⟨7, none⟩])
    ∧ (armed .single .write 0).xfer.error = .ok ∧ { base with xfer := { base.xfer with error := .dataTimeout } }.cfg.checkForm = .nested := by
  and_intros <;> decide +kernel

theorem witness_CheckCallSurfacesErrors :
    (failed .read).session.bound = some .sdmmc1 ∧ (failed .read).session.rca = some 0xAAAA ∧ (failed .read).xfer.error ≠ .ok
    ∧ inProgress .read (failed .read).xfer = true ∧ decodeCardStatus 0xD00 = .ok ∧ decodeCardStatus 0x900 = .ok
    ∧ 5 ≤ ((0xD00 : Word).toNat / 512) % 16 ∧ ((0xD00 : Word).toNat / 512) % 16 ≤ 7 ∧ ¬(5 ≤ ((0x900 : Word).toNat / 512) % 16)
    ∧ after (exec (checkCall .read) ((failed .read).on (quiet 3 ++ quiet 4 ++ ans 13 0x900 ++ quiet 1 ++ quiet 1)))
      (fun t => (t.result, t.xfer.rxCplt)) = some (.err .dataCrcFail, false)
    ∧ after (exec (checkCall .read) { failed .read with cfg := { settings with checkForm := .errorFirst }, sched := (quiet 2 ++ quiet 4
        ++ ans 13 0xD00 ++ quiet 1) }) (fun t => (t.result, t.xfer.rxCplt)) = some (.err .dataCrcFail, true) := by
  and_intros <;> decide +kernel

theorem witness_GetStatusMapsTheState :
    base.session.bound = some .sdmmc1 ∧ base.session.rca = some 0xAAAA ∧ decodeCardStatus 0x1E00 = .ok ∧ decodeCardStatus 0x80000900 ≠ .ok
    ∧ base.sched = [] := by
  and_intros <;> decide +kernel

/-- V-ST-9; `test_sendSDStatus` and `test_sdGetCardStatus` run it. -/
theorem witness_CardStatusReads :
    base.session.bound = some .sdmmc1 ∧ base.session.rca = some 0xAAAA
    ∧ base.sdmmc1.fifo = [] ∧ base.sdmmc1.sta &&& pollEnd = 0 ∧ base.sdmmc1.idmaen = false ∧ decodeCardStatus 0x920 = .ok ∧ ssrWords.length = 16 := by
  and_intros <;> decide +kernel

theorem witness_AbortStopsTheTransfer :
    base.session.bound = some .sdmmc1 ∧ base.session.rca = some 0xAAAA ∧ decodeCardStatus 0x900 = .ok ∧ ¬(5 ≤ ((0x900 : Word).toNat / 512) % 16)
    ∧ decodeCardStatus 0xE00 = .ok ∧ 5 ≤ ((0xE00 : Word).toNat / 512) % 16 ∧ ((0xE00 : Word).toNat / 512) % 16 ≤ 7 ∧ decodeCardStatus 0x80000900 ≠ .ok
    ∧ base.sched = [] := by
  and_intros <;> decide +kernel

theorem witness_TransferStateOwnership :
    NoInterrupt (base.on (ans 13 0x900)) ∧ goesOn (exec .sdGetStatus (base.on (ans 13 0x900))) = true
    ∧ goesOn (exec (checkCall .write) (armed .single .write 0)) = true := by
  unfold NoInterrupt
  and_intros <;> decide +kernel

theorem witness_OperationWrittenOnlyByArming :
    goesOn (exec .sdmmc1IRQHandler (armed .multiple .read 0x100)) = true ∧ goesOn (exec .sdAbort base) = true := by
  and_intros <;> decide +kernel

theorem witness_SessionFieldWriters :
    goesOn (exec .sdmmc1IRQHandler (armed .multiple .read 0x100)) = true ∧ goesOn (exec .sdAbort base) = true ∧ irqEntry .sdmmc1
      = .sdmmc1IRQHandler ∧ Instr.mayLatchRca .sdAbort = false ∧ goesOn (exec (.sdInit 2) base) = true ∧ goesOn (exec (.sdInitializeLL .sdmmc1) base) = true
    ∧ (delaying (.sdInit 2)).hostStep ≠ .idle ∧ (delaying (.sdInit 2)).hostStep.sound = true ∧ goesOn (step (delaying (.sdInit 2))) = true := by
  and_intros <;> decide +kernel

theorem witness_HandlerEndsTheTransfer :
    (armed .single .read 0x100).session.bound = some .sdmmc1 ∧ (armed .single .read 0x100).sdmmc1.sta.getLsbD 8 = true
    ∧ (armed .single .read 0x100).xfer.operation = some ⟨.single, .read⟩ ∧ (armed .multiple .write 0x100).xfer.operation = some ⟨.multiple, .write⟩
    ∧ (armed .single .read 0x100).sched = [] ∧ ((armed .single .read 0x100).setXfer Transfer.reset).xfer.operation = none
    ∧ faultOf (exec .sdmmc1IRQHandler ((armed .single .read 0x100).setXfer Transfer.reset)) = some .unwrittenSession
    ∧ after (exec .sdmmc1IRQHandler ((armed .multiple .write 0x100).on (quiet 7 ++ shortScript .sdmmc1 12 0xD00 ++ quiet 5)))
      (fun t => (t.xfer.complete, t.xfer.txCplt, t.sched.length)) = some (true, false, 0) := by
  and_intros <;> decide +kernel

theorem witness_HandlerRecordsErrors :
    (armed .single .write 0x08000002).session.bound = some .sdmmc1 ∧ (armed .single .write 0x08000002).sched = []
    ∧ (armed .single .write 0x08000002).sdmmc1.sta.getLsbD 8 = false ∧ (armed .single .write 0x08000002).sdmmc1.sta.getLsbD 27 = true := by
  and_intros <;> decide +kernel

theorem witness_HandlerDisablesItsSources :
    goesOn (exec (irqEntry .sdmmc1) (armed .single .read 0x500)) = true ∧ base.session.bound ≠ some .sdmmc2 := by
  and_intros <;> decide +kernel

end Sys2Proof.Tests
end

/-! SUPPORT. The transport (40_transport.md): the card status and R6 words, the cascade of `classify`, and the final clear of every command. -/

namespace Sys2Proof.Machine

/-! ### Card status and R6 words (40 R176 to R180) -/

/-- A bit that a word and a mask share keeps their conjunction from being 0. -/
theorem and_ne_zero_of_getLsbD {r m : Word} {n : Nat} (hr : r.getLsbD n = true) (hm : m.getLsbD n = true) : r &&& m ≠ 0 := by
  intro h
  have := congrArg (fun v : Word => v.getLsbD n) h
  simp [hr, hm] at this

/-- A call of `decodeCardStatus` is the function of 40 R177. -/
theorem exec_decodeCardStatus (r : Word) (s : State) :
    exec (.decodeCardStatus r) s = .next (s.setReturn .idle (.err (decodeCardStatus r))) := by
  show finish _ _ (decodeStatus hostFrame r) s = _
  rw [finish_ok (by rw [decodeStatus, run_pass_bind]; rfl)]
  rfl

/-- A row whose bit is set decides where no row before it has its bit set (40 R176). -/
theorem firstCondition_append {before after : List (Nat × Err)} {bit : Nat} {e : Err} {r : Word}
    (hb : ∀ x ∈ before, r.getLsbD x.1 = false) (hr : r.getLsbD bit = true) :
    firstCondition (before ++ (bit, e) :: after) r = e := by
  induction before with
  | nil => simp [firstCondition, hr]
  | cons x xs ih =>
    obtain ⟨hx, hxs⟩ := List.forall_mem_cons.1 hb
    simpa [firstCondition, hx] using ih hxs

/-- Every row of the table of 40 R176 is an error bit. -/
theorem csErrorBits_of_mem_cardStatusTable : ∀ x ∈ cardStatusTable, csErrorBits.getLsbD x.1 = true := by decide

/-- The first row of the table whose bit is set gives the result (40 R177). -/
theorem decodeCardStatus_first {before after : List (Nat × Err)} {bit : Nat} {e : Err} {r : Word}
    (ht : cardStatusTable = before ++ (bit, e) :: after) (hb : ∀ x ∈ before, r.getLsbD x.1 = false) (hr : r.getLsbD bit = true) :
    decodeCardStatus r = e := by
  have hbit : csErrorBits.getLsbD bit = true := csErrorBits_of_mem_cardStatusTable (bit, e) (by simp [ht])
  rw [decodeCardStatus, if_neg (and_ne_zero_of_getLsbD hr hbit), ht, firstCondition_append hb hr]

/-- Settles O26: the table is searched from its front, and its rows are error bits. -/
theorem cardStatusPriority : Obligations.CardStatusPriority := by
  unfold Obligations.CardStatusPriority
  intro r s
  refine ⟨fun hz => ?_, fun before after bit e ht hb hr => ?_⟩
  · rw [exec_decodeCardStatus, decodeCardStatus, csErrorBits, if_pos hz]
  · rw [exec_decodeCardStatus, decodeCardStatus_first ht hb hr]

/-- `decodeR6` on zero error bits latches the RCA (40 R180, R184). -/
theorem exec_decodeR6_latches {r : Word} (hz : r &&& r6ErrorBits = 0) (s : State) : exec (.decodeR6 r) s =
    .next ((s.setSession { s.session with rca := some (r.extractLsb' 16 16) }).setReturn .idle (.err .ok)) := by
  show finish _ _ (decodeR6 hostFrame r) s = _
  rw [finish_ok (by rw [decodeR6, run_pass_bind, if_pos hz, run_sessionWrite_bind, run_pass_bind]; rfl)]
  rfl

/-- `decodeR6` on an error bit gives its error and changes nothing else (40 R180). -/
theorem exec_decodeR6_fails {r : Word} (hz : r &&& r6ErrorBits ≠ 0) (s : State) :
    exec (.decodeR6 r) s = .next (s.setReturn .idle (.err (r6Error r))) := by
  show finish _ _ (decodeR6 hostFrame r) s = _
  rw [finish_ok (by rw [decodeR6, run_pass_bind, if_neg hz, run_pass_bind]; rfl)]
  rfl

/-- Settles O27: the three error bits of the R6 word are tried in the order 13, 14, 15. -/
theorem relativeAddressDecoder : Obligations.RelativeAddressDecoder := by
  unfold Obligations.RelativeAddressDecoder
  intro r s
  refine ⟨fun hz => exec_decodeR6_latches hz s, fun h13 => ?_, fun h13 h14 => ?_, fun h13 h14 h15 => ?_⟩
  · rw [exec_decodeR6_fails (and_ne_zero_of_getLsbD h13 (by decide)), r6Error, if_pos h13]
  · rw [exec_decodeR6_fails (and_ne_zero_of_getLsbD h14 (by decide))]
    simp only [r6Error, h13, h14, Bool.false_eq_true, if_false, if_true]
  · rw [exec_decodeR6_fails (and_ne_zero_of_getLsbD h15 (by decide))]
    simp only [r6Error, h13, h14, Bool.false_eq_true, if_false]

/-! ### The cascade of `classify` (40 R170) -/

theorem hasFlag_ctimeout (sta : Word) : hasFlag sta ctimeout = sta.getLsbD 2 := hasFlag_bit sta (n := 2) (by decide)
theorem hasFlag_ccrcfail (sta : Word) : hasFlag sta ccrcfail = sta.getLsbD 0 := hasFlag_bit sta (n := 0) (by decide)

/-- The index check reads the low six bits of `RESPCMDR` (40 R174). -/
theorem echoes_iff (w c : Word) : w &&& 0x3F = c ↔ w.toNat % 64 = c.toNat := by
  rw [← BitVec.toNat_inj, BitVec.toNat_and, show (0x3F : Word).toNat = 2 ^ 6 - 1 from rfl, Nat.and_two_pow_sub_one_eq_mod]

/-- A call of `classify` when the schedule is used up: the cascade's result, and its latch (40 R170, R184). -/
theorem exec_classify_still {s : State} {i : Sdmmc} {c rt : Word} {e : Err} (hi : s.session.bound = some i) (hs : s.sched = [])
    (hc : c.toNat < 64) (he : classified c rt.toInt (s.periph i).sta (s.periph i).respcmdr (s.periph i).resp1 = some e) :
    exec (.classify c rt) s = .next ((s.setSession
      (latched c rt.toInt (s.periph i).sta (s.periph i).respcmdr (s.periph i).resp1 s.session)).returned [] (.err e)) := by
  obtain ⟨path, hrun⟩ := classify_still (g := .host) (f := takeIrq irqHandler) (cs := []) (t := s.enter (.classify c rt)) hs hi
    (by simpa using he)
  have hin : commandInRange c = true := decide_eq_true hc
  show finish _ _ (do refuseIf (!commandInRange c) .badCall; classify hostFrame c rt.toInt) s = _
  rw [finish_ok (by rw [hin, Bool.not_true, refuseIf_false, run_bind_ok (run_pure () _)]; exact hrun)]
  simp [State.returned, setSched_self, hs]

/-- Where the flags leave the result to the response, its type is above 0 and neither 2 nor 3 (40 R171 to R173, R175). -/
theorem classifyFlags_none {sta : Word} {rt : Int} (h : classifyFlags sta rt = none) : 0 < rt ∧ rt ≠ 2 ∧ rt ≠ 3 := by
  have h0 : ¬ rt ≤ 0 := fun h0 => by rw [classifyFlags, if_pos h0] at h; cases h
  have h3 : rt ≠ 3 := fun h3 => by rw [classifyFlags, if_neg h0, if_pos h3] at h; cases h
  have h2 : rt ≠ 2 := fun h2 => by
    rw [classifyFlags, if_neg h0, if_neg h3, if_pos h2] at h
    split at h
    · cases h
    · split at h <;> cases h
  exact ⟨by omega, h2, h3⟩

/-- The flags alone never give a type 6 response the result `Ok`. -/
theorem classifyFlags_r6_ne_ok (sta : Word) : classifyFlags sta 6 ≠ some .ok := by
  show (if hasFlag sta ctimeout then some .timeout else if hasFlag sta ccrcfail then some .crcFail else none) ≠ some Err.ok
  split
  · decide
  · split <;> decide

theorem r6Error_ne_ok (r : Word) : r6Error r ≠ .ok := by
  unfold r6Error
  split
  · decide
  · split <;> decide

/-- A classification latches the RCA exactly on a type 6 response that it gives `Ok` (40 R184). -/
theorem latched_of_classified {c : Word} {rt : Int} {sta rc r : Word} {e : Err} (he : classified c rt sta rc r = some e) (x : Session) :
    latched c rt sta rc r x = if rt = 6 ∧ e = .ok then { x with rca := some (r.extractLsb' 16 16) } else x := by
  unfold classified at he
  cases hf : classifyFlags sta rt with
  | some e' =>
    rw [hf] at he
    cases he
    rw [latched, if_neg (by simp [hf]), if_neg]
    rintro ⟨rfl, rfl⟩
    exact classifyFlags_r6_ne_ok sta hf
  | none =>
    obtain ⟨hpos, h2, h3⟩ := classifyFlags_none hf
    simp only [hf, responseTypeAdmitted, decide_eq_true_eq] at he
    by_cases hadm : rt = 0 ∨ rt = 1 ∨ rt = 2 ∨ rt = 3 ∨ rt = 6
    · rw [if_pos hadm] at he
      by_cases hx : rc &&& 0x3F = c
      · rw [if_pos hx] at he
        by_cases h1 : rt = 1
        · rw [latched, if_neg (fun ⟨_, _, hne, _⟩ => hne h1), if_neg (by omega)]
        · rw [if_neg h1] at he
          have h6 : rt = 6 := by omega
          by_cases hz : r &&& r6ErrorBits = 0
          · rw [if_pos hz] at he
            cases he
            rw [latched, if_pos ⟨hf, hx, h1, hz⟩, if_pos ⟨h6, rfl⟩]
          · rw [if_neg hz] at he
            cases he
            rw [latched, if_neg (fun ⟨_, _, _, hzero⟩ => hz hzero), if_neg (fun ⟨_, hok⟩ => r6Error_ne_ok r hok)]
      · rw [if_neg hx] at he
        cases he
        rw [latched, if_neg (fun ⟨_, hecho, _⟩ => hx hecho), if_neg (fun ⟨_, hok⟩ => nomatch hok)]
    · rw [if_neg hadm] at he
      cases he

/-- The result of a response that carries a status or a relative address, where the flags leave it open: the index, then the word. -/
theorem classified_of_none {c : Word} {rt : Int} {sta rc r : Word} (hf : classifyFlags sta rt = none) (hadm : responseTypeAdmitted rt = true) :
    classified c rt sta rc r = some (if rc.toNat % 64 ≠ c.toNat then .illegalCommand else if rt = 1 then decodeCardStatus r
      else if r &&& r6ErrorBits = 0 then .ok else r6Error r) := by
  simp only [classified, hf, hadm, if_true, echoes_iff, ne_eq, ite_not, apply_ite some]

/-- The response types of the cascade, as the words that encode them and as the numbers they encode (30 R135). -/
theorem toInt_eq_responseType (rt : Word) :
    (rt = 1 ↔ rt.toInt = 1) ∧ (rt = 2 ↔ rt.toInt = 2) ∧ (rt = 3 ↔ rt.toInt = 3) ∧ (rt = 6 ↔ rt.toInt = 6) :=
  ⟨BitVec.toInt_inj.symm, BitVec.toInt_inj.symm, BitVec.toInt_inj.symm, BitVec.toInt_inj.symm⟩

/-- The cascade of 40 R170 for the response types that have a result. -/
theorem classified_cascade {rt : Int} (hrt : rt ≤ 0 ∨ rt = 1 ∨ rt = 2 ∨ rt = 3 ∨ rt = 6) (c sta rc r : Word) :
    classified c rt sta rc r = some (
      if rt ≤ 0 ∨ rt = 3 then (if sta.getLsbD 2 then .timeout else .ok)
      else if sta.getLsbD 2 then .timeout else if sta.getLsbD 0 then .crcFail else if rt = 2 then .ok
      else if rc.toNat % 64 ≠ c.toNat then .illegalCommand
      else if rt = 1 then decodeCardStatus r
      else if r &&& r6ErrorBits = 0 then .ok else r6Error r) := by
  have hflags : classifyFlags sta rt = if rt ≤ 0 ∨ rt = 3 then some (if sta.getLsbD 2 then .timeout else .ok)
      else if sta.getLsbD 2 then some .timeout else if sta.getLsbD 0 then some .crcFail else if rt = 2 then some .ok else none := by
    rw [classifyFlags, hasFlag_ctimeout, hasFlag_ccrcfail]
    by_cases h0 : rt ≤ 0
    · have h03 : rt ≤ 0 ∨ rt = 3 := .inl h0
      rw [if_pos h0, if_pos h03]
    · by_cases h3 : rt = 3
      · have h03 : rt ≤ 0 ∨ rt = 3 := .inr h3
        rw [if_neg h0, if_pos h3, if_pos h03]
      · have h03 : ¬(rt ≤ 0 ∨ rt = 3) := fun h => h.elim h0 h3
        rw [if_neg h0, if_neg h3, if_neg h03]
  by_cases h03 : rt ≤ 0 ∨ rt = 3
  · rw [classified, hflags, if_pos h03, if_pos h03]
  rw [if_neg h03] at hflags ⊢
  by_cases hto : sta.getLsbD 2 = true
  · rw [classified, hflags, if_pos hto, if_pos hto]
  rw [if_neg hto] at hflags ⊢
  by_cases hcrc : sta.getLsbD 0 = true
  · rw [classified, hflags, if_pos hcrc, if_pos hcrc]
  rw [if_neg hcrc] at hflags ⊢
  by_cases h2 : rt = 2
  · rw [classified, hflags, if_pos h2, if_pos h2]
  rw [if_neg h2] at hflags ⊢
  exact classified_of_none hflags (decide_eq_true (by omega))

/-- Settles O25: the cascade is `classified`, and a type 6 response with the result `Ok` latches the RCA. -/
theorem classifyCascade : Obligations.ClassifyCascade := by
  unfold Obligations.ClassifyCascade
  intro s i c rt hi hs hc hrt p e n
  obtain ⟨h1, h2, h3, h6⟩ := toInt_eq_responseType rt
  have he : classified c rt.toInt p.sta p.respcmdr p.resp1 = some e := by
    rw [h1, h2, h3, h6] at hrt
    rw [classified_cascade hrt]
    simp only [e, h1, h2, h3, r6ErrorBits, r6Error]
    rfl
  have hn : n = latched c rt.toInt p.sta p.respcmdr p.resp1 s.session := by
    simp only [n, h6, latched_of_classified he]
  rw [exec_classify_still hi hs hc he, hn]

/-! ### What stays while a command runs, whatever `ENV` and `IRQ` do -/

/-- Controller `i` is bound, and the parameters are `cfg`. -/
def BoundWith (i : Sdmmc) (cfg : Params) (s : State) : Prop := s.session.bound = some i ∧ s.cfg = cfg

/-- An operation may stop by a fault or a refusal, but never hold. -/
def NoHold : Stop → State → Prop
  | .hold _, _ => False
  | .fault _, _ | .refused _, _ => True

/-- Every word. -/
def AnyWord (_ : Reg) (_ : Word) : Prop := True

section
variable {i : Sdmmc} {cfg : Params}

theorem boundWith_regs : Regs NoHold (BoundWith i cfg) AnyWord where
  unbound _ _ _ := trivial
  read _ _ _ h _ := by simpa [BoundWith] using h
  value _ _ _ _ _ := trivial
  free _ := trivial
  write _ _ _ _ h _ _ := by simpa [BoundWith] using h
  draws _ _ h := h

theorem anyWord_words : Words AnyWord where
  toCommandWords := ⟨fun _ => trivial, fun _ => trivial, fun _ => trivial⟩
  dtimer _ := trivial
  dlen _ := trivial
  idmactrl _ := trivial
  idmabase0 _ := trivial
  dctrlZero := trivial
  dctrlDma _ := trivial
  dctrlScr := trivial
  dctrlSsr := trivial
  maskSet _ _ _ := trivial
  maskClr _ _ := trivial
  powerSet _ _ _ := trivial
  clkInit _ := trivial
  clkdiv _ _ _ _ := trivial
  widbus _ _ _ := trivial

theorem boundWith_handlerFree : HandlerFree NoHold (BoundWith i cfg) where
  appCmd _ _ h := h
  clear _ _ h := h
  complete _ h := h
  error _ _ h := h
  operation _ _ _ := trivial

theorem boundWith_envFree : EnvFree (BoundWith i cfg) where
  sched _ _ h := h
  env _ _ h := by simpa [BoundWith] using h

theorem boundWith_hostSteps : Steps NoHold (BoundWith i cfg) .host hostFrame.between :=
  hostSteps_keep boundWith_regs anyWord_words boundWith_handlerFree boundWith_envFree (fun _ _ h => h) (fun _ _ h => h) (fun _ _ => trivial)

end

/-! ### The final clear of a command (40 R167) -/

/-- A register write ends in a state with `I` in which the bound controller has taken the word. -/
theorem regWrite_lands {E : Stop → State → Prop} {I : State → Prop} {W : Reg → Word → Prop} {g : Agent} {bt : Act Unit} {cs : List Point}
    {pt : Point} (h : Regs E I W) (hb : Steps E I g bt) (r : Reg) (v : Word) : Spec E I (regWrite ⟨g, bt, cs⟩ pt r v)
      (fun _ t => ∃ (s : State) (i : Sdmmc), I s ∧ s.session.bound = some i ∧ t = s.setPeriph i ((s.periph i).write r v)) := by
  refine (hb.step pt).seq (fun _ => Spec.getState_bind (fun s hs => ?_))
  rintro t rfl
  cases hi : t.session.bound with
  | none =>
    rw [boundRegister_none hi]
    exact h.unbound t hs hi
  | some i =>
    rw [boundRegister_some hi]
    exact ⟨t, i, hs, hi, rfl⟩

/-- The command flags of a controller were cleared with the mask `m`, which `ICR` still holds. -/
def Cleared (i : Sdmmc) (m : Word) (s : State) : Prop := (s.periph i).icr = m ∧ (s.periph i).sta &&& m = 0

theorem cleared_write_icr (s : State) (i : Sdmmc) (c : ClearSet) :
    Cleared i (clearSetMask c) (s.setPeriph i ((s.periph i).write .icr (clearSetMask c))) := by
  rw [Cleared, State.periph_setPeriph]
  refine ⟨rfl, ?_⟩
  show clearedBy _ _ &&& _ = 0
  rw [clearedBy_clearSet, BitVec.and_assoc, BitVec.and_comm (~~~_), BitVec.and_not_self]
  exact BitVec.and_zero

/-- The last steps of a command clear its flags, and nothing sets one after them. -/
theorem closeCommand_clears {i : Sdmmc} {cfg : Params} {op : Act Err} (h : Spec NoHold (BoundWith i cfg) op (fun _ => BoundWith i cfg)) :
    Spec NoHold (BoundWith i cfg) (closeCommand hostFrame (clearSetMask cfg.clearSet) op) (fun _ => Cleared i (clearSetMask cfg.clearSet)) := by
  refine h.seq (fun e => (regWrite_lands boundWith_regs boundWith_hostSteps .icr _).bind (fun _ => ?_))
  rintro _ ⟨s, j, ⟨hb, -⟩, hj, rfl⟩
  obtain rfl : i = j := Option.some.inj (hb.symm.trans hj)
  exact cleared_write_icr s i cfg.clearSet

/-- Every path of a command that reaches its end leaves the command flags cleared. -/
theorem transmitCommand_clears {i : Sdmmc} {cfg : Params} (c a : Word) (rt : Int) :
    Spec NoHold (BoundWith i cfg) (transmitCommand hostFrame c a rt) (fun _ => Cleared i (clearSetMask cfg.clearSet)) := by
  have hb : Steps NoHold (BoundWith i cfg) .host hostFrame.between := boundWith_hostSteps
  have hr : Regs NoHold (BoundWith i cfg) AnyWord := boundWith_regs
  have hw : ∀ pt r v, Spec NoHold (BoundWith i cfg) (regWrite hostFrame pt r v) (fun _ => BoundWith i cfg) := fun _ _ _ => regWrite_keeps hr hb trivial
  refine Spec.ite (fun _ => hb.passed (fun _ => Spec.getState_seq ?_)) (fun _ => Spec.refuse (fun _ _ => trivial))
  rintro s ⟨-, rfl⟩
  refine (hw _ _ _).seq (fun _ => (hw _ _ _).seq (fun _ => (regRead_keeps hr hb .cmdr).seq (fun _ => (hw _ _ _).seq (fun _ => ?_))))
  refine Spec.bind (R := fun _ => BoundWith i s.cfg) (Spec.update (fun _ h => h)) (fun _ => hb.passed (fun _ => ?_))
  refine (pollStatus_keeps hr hb _ _).seq (fun hit => closeCommand_clears (op := commandResult hostFrame hit c rt) ?_)
  exact hb.passed (fun _ => Spec.ite
    (fun _ => classify_keeps hr hb c (fun _ _ _ h => h) (fun _ _ _ => trivial)) (fun _ => hb.returned))

/-! ### The commands of 30 R110 as calls of `transmitCommand` -/

/-- A command whose argument can be read is the transport with that argument. -/
theorem finish_sendCommand {x : Instr} {s : State} {argument : Act Word} {c a : Word} {rt : Int}
    (h : argument (s.enter x) = .ok a (s.enter x)) :
    finish x .err (sendCommand c argument rt) s = finish x .err (transmitCommand hostFrame c a rt) s := by
  rw [finish_eq, finish_eq, conclude, conclude, sendCommand, run_bind_ok h]

/-- `RCAARG` is the RCA above sixteen zero bits (30 R106). -/
theorem rcaArgument_eq (rca : BitVec 16) : rcaArgument rca = rca ++ 0#16 := by
  rw [rcaArgument, BitVec.append_def, BitVec.shiftLeftZeroExtend_eq]
  simp

theorem readDataAddress_run {s : State} {t : CardType} (h : s.session.cardType = some t) (n : Word) :
    readDataAddress n s = .ok (dataAddress t n) s := run_bind_ok (run_readOr h)

theorem readAcmd41Argument_run {s : State} {c : Word} (h : s.session.capArg = some c) :
    readAcmd41Argument s = .ok (acmd41Argument c) s := run_bind_ok (run_readOr h)

/-- The indices of 30 R110, as words and as numbers. -/
theorem mem_issuedCommands_iff (c : Word) : c ∈ issuedCommands ↔
    c.toNat ∈ [0, 2, 3, 6, 7, 8, 9, 12, 13, 16, 17, 18, 24, 25, 41, 51, 55] := by
  rw [show [0, 2, 3, 6, 7, 8, 9, 12, 13, 16, 17, 18, 24, 25, 41, 51, 55] = issuedCommands.map BitVec.toNat from rfl]
  refine ⟨fun h => List.mem_map_of_mem h, fun h => ?_⟩
  obtain ⟨d, hd, he⟩ := List.mem_map.1 h
  exact BitVec.eq_of_toNat_eq he ▸ hd

theorem commandInRange_of_issued : ∀ c ∈ issuedCommands, commandInRange c = true := by simp [issuedCommands, commandInRange]

/-- A call of `transmitCommand` with an issued index passes the checks at the call. -/
theorem exec_transmitCommand {c : Word} (hc : c ∈ issuedCommands) (a rt : Word) (s : State) : exec (.transmitCommand c a rt) s =
    finish (.transmitCommand c a rt) .err (transmitCommand hostFrame c a rt.toInt) s := by
  show finish _ _ (do
    refuseIf (!commandInRange c) .badCall
    refuseIf (!issuedCommands.contains c) .commandNotIssued
    transmitCommand hostFrame c a rt.toInt) s = _
  rw [commandInRange_of_issued c hc, List.contains_iff_mem.2 hc]
  rfl

/-- An instruction with a row in the command table is the transport with the row's index, argument and response type (30 R110). -/
theorem exec_of_commandRow {s : State} {x : Instr} {c a : Word} {rt : Int} (h : commandRow s.session x = some (c, a, rt)) :
    exec x s = finish x .err (transmitCommand hostFrame c a rt) s := by
  cases x with
  | cmd0 | cmd2 | cmd3 | cmd8 | cmd12 | acmd13 | acmd51 => cases h; exact finish_sendCommand rfl
  | cmd16 w | acmd6 w => cases w <;> cases h <;> exact finish_sendCommand rfl
  | cmd7 | cmd9 | cmd13 =>
    obtain ⟨rca, hrca, ⟨⟩⟩ := Option.map_eq_some_iff.1 h
    exact rcaArgument_eq rca ▸ finish_sendCommand (run_readRcaArg hrca)
  | cmd17 n | cmd18 n | cmd24 n | cmd25 n =>
    obtain ⟨t, ht, ⟨⟩⟩ := Option.map_eq_some_iff.1 h
    exact finish_sendCommand (readDataAddress_run (s := s.enter _) ht n)
  | cmd55 arg =>
    cases arg with
    | none => cases h; exact finish_sendCommand rfl
    | rcaArg =>
      obtain ⟨rca, hrca, ⟨⟩⟩ := Option.map_eq_some_iff.1 h
      exact rcaArgument_eq rca ▸ finish_sendCommand (run_readRcaArg hrca)
  | acmd41 =>
    obtain ⟨k, hk, ⟨⟩⟩ := Option.map_eq_some_iff.1 h
    exact finish_sendCommand (readAcmd41Argument_run hk)
  | transmitCommand c' a' rt' =>
    rw [commandRow] at h
    split at h
    next hrow =>
      cases h
      exact exec_transmitCommand ((mem_issuedCommands_iff _).2 hrow.1) _ _ s
    next => cases h
  | _ => cases h

/-- Settles O21: the last register write of a command is the clear of its flags, and a refused response type comes to no statement. -/
theorem commandEndsCleared : Obligations.CommandEndsCleared := by
  unfold Obligations.CommandEndsCleared
  refine ⟨fun s t i x c a rt hrow hi ht => ?_, fun s c a rt hc hrt => ?_⟩
  · rw [exec_of_commandRow hrow, finish_eq] at ht
    have hspec := (transmitCommand_clears (i := i) (cfg := s.cfg) c a rt).post (fun e u hu =>
      show Cleared i s.clearMask (u.setReturn .idle (.err e)) by simpa [Cleared, State.clearMask] using hu)
    exact conclude_spec hspec (fun _ _ hstop => hstop.elim) (show BoundWith i s.cfg (s.enter x) from ⟨hi, rfl⟩) ht
  · rw [exec_transmitCommand hc, finish_eq]
    exact conclude_refused (by rw [transmitCommand, hrt]; rfl)

end Sys2Proof.Machine

/-! SUPPORT. The presence pin (41_negotiation.md): what `DetectPin` and `SD_IsDetected` return, and the state they leave. -/

namespace Sys2Proof.Machine

variable {b : Frame} {s t : State}

/-- `DetectPin` sees the level that the boundary before it leaves on the pin. -/
theorem detectPin_run {pt : Point} (hb : b.step pt s = .ok () t) : detectPin b pt s = .ok t.pin t := by
  rw [detectPin, run_bind_ok hb]
  rfl

/-- Without the pin, a card counts as present, and no step is taken (41 R201). -/
theorem sdIsDetected_noPin (h : s.cfg.detect = false) :
    sdIsDetected b s = .ok true (s.moved b.agent (b.callers ++ [⟨.sdIsDetected, 1, 0⟩])) := by
  rw [sdIsDetected, run_getState_bind, h]
  exact run_pass_bind ..

/-- With the pin, the one step is its read, whose level is compared with `P_DETECT_LEVEL` (41 R201). -/
theorem sdIsDetected_pin (h : s.cfg.detect = true) (hb : b.step ⟨.sdIsDetected, 1, 1⟩ s = .ok () t) :
    sdIsDetected b s = .ok (t.pin == s.cfg.detectLevel) t := by
  rw [sdIsDetected, run_getState_bind, if_pos h, run_bind_ok (detectPin_run hb)]
  rfl

/-- A call of `SD_IsDetected` whose steps end. -/
theorem exec_sdIsDetected {present : Bool} (h : sdIsDetected hostFrame (s.enter .sdIsDetected) = .ok present t) :
    exec .sdIsDetected s = .next (t.setReturn .idle (.bool present)) := finish_ok h

/-- Settles O30: without the pin nothing but the position of `HOST` changes; with it, the boundary before the read is where `ENV` sets the level. -/
theorem isDetectedReadsThePin : Obligations.IsDetectedReadsThePin := by
  unfold Obligations.IsDetectedReadsThePin
  intro s level rest
  refine ⟨fun hdetect => ?_, fun hdetect hsched => ?_⟩
  · rw [exec_sdIsDetected (sdIsDetected_noPin hdetect)]
    rfl
  · have hstep : hostFrame.step ⟨.sdIsDetected, 1, 1⟩ (s.enter .sdIsDetected) = .ok () _ :=
      step_env (moves := [.pin level]) hsched (by simp [Move.fromEnv])
    rw [exec_sdIsDetected (sdIsDetected_pin hdetect hstep)]
    rfl

end Sys2Proof.Machine

/-! SUPPORT. The register decoder (42_register_decoder.md): the fields as bits of the captured words, what `decodeCSD` and `decodeCID` write, and what
`SD_GetCardInfo` makes of both. None of them takes a step, so `ENV` and `IRQ` do not come in. -/

namespace Sys2Proof.Machine

/-! ### The fields as bits of the captured words (42 R239) -/

theorem Reg128.toNat_bits (x : Reg128) :
    x.bits.toNat = x.w0.toNat * 2 ^ 96 + x.w1.toNat * 2 ^ 64 + x.w2.toNat * 2 ^ 32 + x.w3.toNat := by
  simp only [Reg128.bits, BitVec.toNat_append, ← Nat.shiftLeft_add_eq_or_of_lt (BitVec.isLt _)]
  omega

/-- A field of a captured register is the natural of 42 R239. -/
theorem Reg128.toNat_field (x : Reg128) (hi lo : Nat) : (x.field hi lo).toNat = bitsOf x hi lo := by
  rw [Reg128.field, BitVec.extractLsb_toNat, Nat.shiftRight_eq_div_pow, x.toNat_bits, bitsOf]

theorem csdCommon_agrees (x : Reg128) : (csdCommon x).agrees x := by
  unfold CsdCommon.agrees
  and_intros <;> exact x.toNat_field _ _

theorem csdV1_agrees (x : Reg128) : (csdV1 x).agrees x := by
  unfold CsdV1.agrees
  and_intros <;> exact x.toNat_field _ _

theorem csdV2_agrees (x : Reg128) : (csdV2 x).agrees x := by
  unfold CsdV2.agrees
  and_intros <;> exact x.toNat_field _ _

theorem csdTail_agrees (x : Reg128) : (csdTail x).agrees x := by
  unfold CsdTail.agrees
  and_intros <;> exact x.toNat_field _ _

theorem cidFields_agrees (x : Reg128) : (cidFields x).agrees x := by
  unfold Cid.agrees
  and_intros <;> exact x.toNat_field _ _

theorem blockSizeOf_v1 (x : Reg128) (f : CsdV1) : blockSizeOf (csdCommon x) (.v1 f) = 2 ^ bitsOf x 83 80 := by
  rw [← x.toNat_field]
  rfl

/-- The capacity of layout V1 (42 R246). -/
theorem capacityOf_v1 (x : Reg128) : capacityOf (csdCommon x) (.v1 (csdV1 x)) =
    (bitsOf x 73 62 + 1) * 2 ^ (bitsOf x 49 47 + 2) * 2 ^ bitsOf x 83 80 := by
  simp only [← x.toNat_field]
  rfl

/-- The capacity of layout V2 (42 R246). -/
theorem capacityOf_v2 (x : Reg128) : capacityOf (csdCommon x) (.v2 (csdV2 x)) = (bitsOf x 69 48 + 1) * 524288 := by
  simp only [← x.toNat_field]
  rfl

/-! ### `S.CardInfo` and its writes -/

/-- `S.CardInfo` after the writes of `decodeCSD` in the layout `l` (42 R242 to R246). -/
def CardInfo.withCsd (c : CardInfo) (x : Reg128) (l : CsdLayout) : CardInfo :=
  CardInfo.withSizes { CardInfo.withLayout { c with csdCommon := some (Machine.csdCommon x) } l with csdTail := some (Machine.csdTail x) } x l

/-- The state with `S.CardInfo` replaced. -/
def State.setCardInfo (s : State) (c : CardInfo) : State := s.setSession { s.session with cardInfo := c }

@[simp] theorem State.setCardInfo_cardInfo (s : State) (c : CardInfo) : (s.setCardInfo c).session.cardInfo = c := rfl
@[simp] theorem State.setCardInfo_cardType (s : State) (c : CardInfo) : (s.setCardInfo c).session.cardType = s.session.cardType := rfl
@[simp] theorem State.setCardInfo_csd (s : State) (c : CardInfo) : (s.setCardInfo c).session.csd = s.session.csd := rfl
@[simp] theorem State.setCardInfo_cid (s : State) (c : CardInfo) : (s.setCardInfo c).session.cid = s.session.cid := rfl
@[simp] theorem State.setCardInfo_rca (s : State) (c : CardInfo) : (s.setCardInfo c).session.rca = s.session.rca := rfl
@[simp] theorem State.setCardInfo_setCardInfo (s : State) (c d : CardInfo) : (s.setCardInfo c).setCardInfo d = s.setCardInfo d := rfl
@[simp] theorem State.moved_setCardInfo (s : State) (a : Agent) (n : List Point) (c : CardInfo) :
    (s.moved a n).setCardInfo c = (s.setCardInfo c).moved a n := by cases a <;> rfl

variable {b : Frame} {s : State} {ct : CardType} {rca : BitVec 16} {x csd cid : Reg128} {l : CsdLayout}

/-- A write of `S.CardInfo` moves the agent to its statement and changes nothing else. -/
theorem run_cardInfoWrite (b : Frame) (pt : Point) (f : CardInfo → CardInfo) (s : State) :
    cardInfoWrite b pt f s = .ok () ((s.setCardInfo (f s.session.cardInfo)).moved b.agent (b.callers ++ [pt])) := run_sessionWrite ..

@[simp] theorem run_cardInfoWrite_bind {β : Type} (b : Frame) (pt : Point) (f : CardInfo → CardInfo) (g : Unit → Act β) (s : State) :
    (cardInfoWrite b pt f >>= g) s = g () ((s.setCardInfo (f s.session.cardInfo)).moved b.agent (b.callers ++ [pt])) :=
  run_bind_ok (run_cardInfoWrite b pt f s)

/-! ### decodeCSD (42 R241) and decodeCID (42 R250) -/

/-- The layout of a recognised class: V2 for high capacity, V1 for the two standard types (42 R241). -/
theorem layoutOf_recognised (h : ct = .standardV1_1 ∨ ct = .standardV2_0 ∨ ct = .highCapacity) (x : Reg128) :
    (ct ≠ .highCapacity ∧ layoutOf ct x = some (.v1 (csdV1 x))) ∨ (ct = .highCapacity ∧ layoutOf ct x = some (.v2 (csdV2 x))) := by
  rcases h with rfl | rfl | rfl
  · exact .inl ⟨nofun, rfl⟩
  · exact .inl ⟨nofun, rfl⟩
  · exact .inr ⟨rfl, rfl⟩

theorem recognised_of_layoutOf (h : layoutOf ct x = some l) : ct = .standardV1_1 ∨ ct = .standardV2_0 ∨ ct = .highCapacity := by
  cases ct with
  | standardV1_1 => exact .inl rfl
  | standardV2_0 => exact .inr (.inl rfl)
  | highCapacity => exact .inr (.inr rfl)
  | secureDigitalIO | secureDigitalIOCombo | unknown => cases h

theorem unrecognised_not_recognised (h : ct = .secureDigitalIO ∨ ct = .secureDigitalIOCombo ∨ ct = .unknown) :
    ¬(ct = .standardV1_1 ∨ ct = .standardV2_0 ∨ ct = .highCapacity) := by
  rcases h with rfl | rfl | rfl <;> decide

theorem run_writeCsd (b : Frame) (x : Reg128) (l : CsdLayout) (s : State) : writeCsd b x l s =
    .ok () ((s.setCardInfo (s.session.cardInfo.withCsd x l)).moved b.agent (b.callers ++ [⟨.decodeCSD, 8, 0⟩])) := by
  simp [writeCsd, run_pass, CardInfo.withCsd]

/-- In a recognised class the CSD fields are written, and nothing else. -/
theorem decodeCSD_run (hct : s.session.cardType = some ct) (hx : s.session.csd.value = some x) (hl : layoutOf ct x = some l) :
    decodeCSD b s = .ok .ok ((s.setCardInfo (s.session.cardInfo.withCsd x l)).moved b.agent (b.callers ++ [⟨.decodeCSD, 8, 0⟩])) := by
  rw [decodeCSD, readCardType, run_bind_ok (run_readOr hct), run_pass_bind, if_pos (recognised_of_layoutOf hl),
    run_bind_ok (run_readOr (by simpa using hx)), hl]
  simp only [run_bind_ok (run_writeCsd ..), run_pure, State.moved_session, State.moved_setCardInfo, State.moved_moved]

/-- In another class `decodeCSD` writes nothing, whatever `S.CSD` holds (42 R247). -/
theorem decodeCSD_unrecognised (hct : s.session.cardType = some ct)
    (h : ct = .secureDigitalIO ∨ ct = .secureDigitalIOCombo ∨ ct = .unknown) :
    ∃ path, decodeCSD b s = .ok .unsupportedFeature (s.moved b.agent path) := by
  rw [decodeCSD, readCardType, run_bind_ok (run_readOr hct), run_pass_bind, if_neg (unrecognised_not_recognised h)]
  exact ⟨_, rfl⟩

theorem decodeCSD_fault (hct : s.session.cardType = some ct) (h : ct = .standardV1_1 ∨ ct = .standardV2_0 ∨ ct = .highCapacity)
    (hx : s.session.csd.value = none) : ∃ u, decodeCSD b s = .error (.fault .unwrittenSession) u := by
  rw [decodeCSD, readCardType, run_bind_ok (run_readOr hct), run_pass_bind, if_pos h,
    run_bind_error (run_readOr_none (by simpa using hx))]
  exact ⟨_, rfl⟩

/-- The CID fields are written, and nothing else, whatever the class. -/
theorem decodeCID_run (hx : s.session.cid.value = some x) : decodeCID b s =
    .ok .ok ((s.setCardInfo { s.session.cardInfo with cid := some (cidFields x) }).moved b.agent (b.callers ++ [⟨.decodeCID, 2, 0⟩])) := by
  rw [decodeCID, run_bind_ok (run_readOr hx), run_cardInfoWrite_bind, run_pass_bind, State.moved_moved]
  rfl

theorem decodeCID_fault (hx : s.session.cid.value = none) : decodeCID b s = .error (.fault .unwrittenSession) s :=
  run_bind_error (run_readOr_none hx)

theorem exec_decodeCID (hx : s.session.cid.value = some x) : exec .decodeCID s =
    .next ((s.setCardInfo { s.session.cardInfo with cid := some (cidFields x) }).setReturn .idle (.err .ok)) :=
  (finish_ok (decodeCID_run (s := s.enter .decodeCID) hx) :)

/-- Settles O39: `decodeCID` writes `cidFields`, whose fields are the bits of 42 R250. -/
theorem cidDecoder : Obligations.CidDecoder := by
  unfold Obligations.CidDecoder
  intro s x hx
  exact ⟨cidFields x, cidFields_agrees x, exec_decodeCID hx⟩

/-! ### SD_GetCardInfo (42 R240) -/

/-- `S.CardInfo` after the two copies of `SD_GetCardInfo`. -/
def CardInfo.withCopies (c : CardInfo) (ct : CardType) (rca : BitVec 16) : CardInfo := { c with cardType := some ct, rca := some rca }

/-- `SD_GetCardInfo` from its call of `decodeCSD` on. -/
def decodeRegisters (b : Frame) : Act Err := do
  let e ← decodeCSD (b.call ⟨.sdGetCardInfo, 3, 0⟩)
  if e = .ok then do
    let _ ← decodeCID (b.call ⟨.sdGetCardInfo, 4, 0⟩)
    b.pass .sdGetCardInfo [(5, 0)]
    pure .ok
  else do
    cardInfoWrite b ⟨.sdGetCardInfo, 3, 0⟩ CardInfo.undecoded
    pure e

/-- With both sources written, the copies are made, then the registers are decoded. -/
theorem sdGetCardInfo_copies (hct : s.session.cardType = some ct) (hrca : s.session.rca = some rca) : sdGetCardInfo b s =
    decodeRegisters b ((s.setCardInfo (s.session.cardInfo.withCopies ct rca)).moved b.agent (b.callers ++ [⟨.sdGetCardInfo, 2, 0⟩])) := by
  rw [sdGetCardInfo, readCardType, run_bind_ok (run_readOr hct), run_cardInfoWrite_bind, run_bind_ok (run_readOr (by simpa using hrca)),
    run_cardInfoWrite_bind]
  simp [decodeRegisters, CardInfo.withCopies]

theorem sdGetCardInfo_fault (h : s.session.cardType = none ∨ s.session.rca = none) :
    ∃ u, sdGetCardInfo b s = .error (.fault .unwrittenSession) u := by
  cases hct : s.session.cardType with
  | none => exact ⟨_, run_bind_error (run_readOr_none hct)⟩
  | some ct =>
    have hrca : s.session.rca = none := h.resolve_left (by simp [hct])
    rw [sdGetCardInfo, readCardType, run_bind_ok (run_readOr hct), run_cardInfoWrite_bind,
      run_bind_error (run_readOr_none (by simpa using hrca))]
    exact ⟨_, rfl⟩

theorem decodeRegisters_run (hct : s.session.cardType = some ct) (hcsd : s.session.csd.value = some csd)
    (hcid : s.session.cid.value = some cid) (hl : layoutOf ct csd = some l) : decodeRegisters b s =
      .ok .ok ((s.setCardInfo { s.session.cardInfo.withCsd csd l with cid := some (cidFields cid) }).moved b.agent
        (b.callers ++ [⟨.sdGetCardInfo, 5, 0⟩])) := by
  rw [decodeRegisters, run_bind_ok (decodeCSD_run hct hcsd hl), if_pos rfl, run_bind_ok (decodeCID_run (by simpa using hcid))]
  simp

theorem decodeRegisters_unrecognised (hct : s.session.cardType = some ct)
    (h : ct = .secureDigitalIO ∨ ct = .secureDigitalIOCombo ∨ ct = .unknown) : decodeRegisters b s =
      .ok .unsupportedFeature ((s.setCardInfo s.session.cardInfo.undecoded).moved b.agent (b.callers ++ [⟨.sdGetCardInfo, 3, 0⟩])) := by
  obtain ⟨path, hcsd⟩ := decodeCSD_unrecognised (b := b.call ⟨.sdGetCardInfo, 3, 0⟩) hct h
  rw [decodeRegisters, run_bind_ok hcsd, if_neg nofun]
  simp

/-- In a recognised class an unwritten CSD stops `decodeCSD`, and an unwritten CID stops `decodeCID` after it. -/
theorem decodeRegisters_fault (hct : s.session.cardType = some ct) (h : ct = .standardV1_1 ∨ ct = .standardV2_0 ∨ ct = .highCapacity)
    (hx : s.session.csd.value = none ∨ s.session.cid.value = none) : ∃ u, decodeRegisters b s = .error (.fault .unwrittenSession) u := by
  cases hcsd : s.session.csd.value with
  | none =>
    obtain ⟨u, hu⟩ := decodeCSD_fault (b := b.call ⟨.sdGetCardInfo, 3, 0⟩) hct h hcsd
    exact ⟨u, run_bind_error hu⟩
  | some csd =>
    have hcid : s.session.cid.value = none := hx.resolve_left (by simp [hcsd])
    obtain ⟨l, hl⟩ : ∃ l, layoutOf ct csd = some l := (layoutOf_recognised h csd).elim (fun hv => ⟨_, hv.2⟩) (fun hv => ⟨_, hv.2⟩)
    rw [decodeRegisters, run_bind_ok (decodeCSD_run hct hcsd hl), if_pos rfl, run_bind_error (decodeCID_fault (by simpa using hcid))]
    exact ⟨_, rfl⟩

/-- A call of `SD_GetCardInfo` that ends leaves `S.CardInfo` as written, and `HOST` idle. -/
theorem exec_sdGetCardInfo_of_run {e : Err} {c : CardInfo} {n : List Point}
    (h : sdGetCardInfo hostFrame (s.enter .sdGetCardInfo) = .ok e (((s.enter .sdGetCardInfo).setCardInfo c).moved .host n)) :
    exec .sdGetCardInfo s = .next ((s.setCardInfo c).setReturn .idle (.err e)) := (finish_ok h :)

/-- `SD_GetCardInfo` of a recognised class with all four sources written. -/
theorem exec_sdGetCardInfo (hct : s.session.cardType = some ct) (hrca : s.session.rca = some rca) (hcsd : s.session.csd.value = some csd)
    (hcid : s.session.cid.value = some cid) (hl : layoutOf ct csd = some l) : exec .sdGetCardInfo s =
      .next ((s.setCardInfo { (s.session.cardInfo.withCopies ct rca).withCsd csd l with cid := some (cidFields cid) }).setReturn .idle (.err .ok)) := by
  refine exec_sdGetCardInfo_of_run (n := [⟨.sdGetCardInfo, 5, 0⟩]) ((sdGetCardInfo_copies (s := s.enter .sdGetCardInfo) hct hrca).trans ?_)
  exact decodeRegisters_run (ct := ct) hct hcsd hcid hl

theorem exec_sdGetCardInfo_unrecognised (hct : s.session.cardType = some ct) (hrca : s.session.rca = some rca)
    (h : ct = .secureDigitalIO ∨ ct = .secureDigitalIOCombo ∨ ct = .unknown) : exec .sdGetCardInfo s =
      .next ((s.setCardInfo (s.session.cardInfo.withCopies ct rca).undecoded).setReturn .idle (.err .unsupportedFeature)) := by
  refine exec_sdGetCardInfo_of_run (n := [⟨.sdGetCardInfo, 3, 0⟩]) ((sdGetCardInfo_copies (s := s.enter .sdGetCardInfo) hct hrca).trans ?_)
  exact decodeRegisters_unrecognised (ct := ct) hct h

theorem exec_sdGetCardInfo_fault (h : ∃ u, sdGetCardInfo hostFrame (s.enter .sdGetCardInfo) = .error (.fault .unwrittenSession) u) :
    exec .sdGetCardInfo s = .fault .unwrittenSession := by
  obtain ⟨u, hu⟩ := h
  exact conclude_fault hu

/-- Settles O40: the two copies, then by the class the decoded fields or none; each source is read before what depends on it is written. -/
theorem getCardInfo : Obligations.GetCardInfo := by
  unfold Obligations.GetCardInfo
  refine ⟨fun s ct rca csd cid hct hrca hcsd hcid => ⟨fun h => ?_, exec_sdGetCardInfo_unrecognised hct hrca⟩,
    fun s h => exec_sdGetCardInfo_fault (sdGetCardInfo_fault (s := s.enter .sdGetCardInfo) h), fun s ct hct h hx => ?_⟩
  · have hcommon := csdCommon_agrees csd
    have htail := csdTail_agrees csd
    have hid := cidFields_agrees cid
    rcases layoutOf_recognised h csd with ⟨hne, hl⟩ | ⟨rfl, hl⟩
    · refine ⟨_, exec_sdGetCardInfo hct hrca hcsd hcid hl, rfl, rfl, ⟨_, rfl, hid⟩,
        ⟨_, _, _, rfl, rfl, rfl, hcommon, htail, hne, csdV1_agrees csd⟩, ?_, ?_⟩
      · rw [if_neg hne, ← blockSizeOf_v1 csd (csdV1 csd)]
        rfl
      · rw [if_neg hne, ← capacityOf_v1]
        rfl
    · refine ⟨_, exec_sdGetCardInfo hct hrca hcsd hcid hl, rfl, rfl, ⟨_, rfl, hid⟩,
        ⟨_, _, _, rfl, rfl, rfl, hcommon, htail, rfl, csdV2_agrees csd⟩, rfl, ?_⟩
      rw [if_pos rfl, ← capacityOf_v2]
      rfl
  · cases hrca : s.session.rca with
    | none => exact exec_sdGetCardInfo_fault (sdGetCardInfo_fault (s := s.enter .sdGetCardInfo) (.inr hrca))
    | some rca =>
      refine exec_sdGetCardInfo_fault ?_
      rw [sdGetCardInfo_copies (s := s.enter .sdGetCardInfo) hct hrca]
      exact decodeRegisters_fault (ct := ct) hct h hx

end Sys2Proof.Machine

/-! SUPPORT. The card status poll (44_block_transfer.md): what `SD_GetStatus` returns, and the state it leaves. -/

namespace Sys2Proof.Machine

/-! ### The mapping of `CURRENT_STATE` (44 R325) -/

theorem currentState_eq (r : Word) : currentState r = r.toNat / 512 % 16 := by
  rw [currentState, BitVec.extractLsb'_toNat, Nat.shiftRight_eq_div_pow]

/-! ### SD_GetStatus over a known command -/

@[simp] theorem Periph.answeredShort_resp1 (p : Periph) (clear command argument : Word) (rt : Int) (index response : Word) :
    (p.answeredShort clear command argument rt index response).resp1 = response := rfl

section
variable {g : Agent} {f : Sdmmc → Act Unit} {cs : List Point} {s t : State} {i : Sdmmc} {rca : BitVec 16} {e : Err}

/-- A failure of CMD13 is the result, and no statement follows it. -/
theorem sdGetStatus_failed {b : Frame} (hrca : s.session.rca = some rca)
    (h : transmitCommand (b.call ⟨.sdGetStatus, 1, 0⟩) 13 (rca ++ 0#16) 1 s = .ok e t) (he : e ≠ .ok) : sdGetStatus b s = .ok e t := by
  rw [sdGetStatus, run_bind_ok (run_readRcaArg hrca), rcaArgument_eq, run_thenOk_stop h he]

/-- After a CMD13 that gave `Ok`, the state of the card in `RESP1` decides, read at a quiet boundary. -/
theorem sdGetStatus_succeeded (hrca : s.session.rca = some rca)
    (h : transmitCommand ((frameOf g f cs).call ⟨.sdGetStatus, 1, 0⟩) 13 (rca ++ 0#16) 1 s = .ok .ok t) (hi : t.session.bound = some i)
    (hq : t.sched.headD [] = []) : ∃ path, sdGetStatus (frameOf g f cs) s =
      .ok (statusOfState (currentState (t.periph i).resp1)) ((t.setSched t.sched.tail).moved g path) := by
  rw [sdGetStatus, run_bind_ok (run_readRcaArg hrca), rcaArgument_eq, run_thenOk_ok h, run_bind_ok (regRead_quiet hq hi (by decide)),
    run_pass_bind, run_pure, State.moved_moved]
  exact ⟨_, rfl⟩

/-- The poll of a card that answers with a status without an error bit. -/
theorem sdGetStatus_answered {status : Word} {rest : List (List Move)} (hi : s.session.bound = some i) (hrca : s.session.rca = some rca)
    (hst : decodeCardStatus status = .ok) (hs : s.sched = shortScript i 13 status ++ quiet 1 ++ rest) :
    ∃ path, sdGetStatus (frameOf g f cs) s = .ok (statusOfState (currentState status)) ((((s.setSched rest).setPeriph i
      ((s.periph i).answeredShort s.clearMask 13 (rca ++ 0#16) 1 13 status)).setAppCmd false).moved g path) := by
  obtain ⟨path, hrun⟩ := sdGetStatus_succeeded (i := i) (g := g) (f := f) (cs := cs) hrca
    (hst ▸ transmit_r1 hi (by decide) _ (hs.trans (List.append_assoc ..)) (by decide)) (by simpa using hi) (by simp [quiet])
  exact ⟨path, by simpa [quiet, State.setPeriph_setSched] using hrun⟩

/-- The poll of a card that answers with an error bit. -/
theorem sdGetStatus_rejected {status : Word} {rest : List (List Move)} (hi : s.session.bound = some i) (hrca : s.session.rca = some rca)
    (hst : decodeCardStatus status ≠ .ok) (hs : s.sched = shortScript i 13 status ++ rest) :
    ∃ path, sdGetStatus (frameOf g f cs) s = .ok (decodeCardStatus status) ((((s.setSched rest).setPeriph i
      ((s.periph i).answeredShort s.clearMask 13 (rca ++ 0#16) 1 13 status)).setAppCmd false).moved g path) :=
  ⟨_, sdGetStatus_failed hrca (transmit_r1 hi (by decide) _ hs (by decide)) hst⟩

/-- The poll of a silent card. -/
theorem sdGetStatus_silent (hi : s.session.bound = some i) (hrca : s.session.rca = some rca) (hs : s.sched = []) :
    ∃ path, sdGetStatus (frameOf g f cs) s = .ok .timeout ((((s.setSched []).setPeriph i
      ((s.periph i).commanded s.clearMask 13 (rca ++ 0#16) 1)).setAppCmd false).moved g path) := by
  rw [setSched_self hs]
  exact ⟨_, sdGetStatus_failed hrca (transmit_silent hi (by decide) _ (by decide) hs) (by decide)⟩

end

/-! ### SD_GetStatus as a call of `HOST` -/

/-- A call whose operation wrote one controller and the mark of an accepted CMD55, its schedule used up to `rest`. -/
theorem finish_periphWritten {α : Type} {x : Instr} {r : α → Result} {op : Act α} {s : State} {i : Sdmmc} {p : Periph} {c : Bool} {a : α}
    {rest : List (List Move)}
    (h : ∃ path, op (s.enter x) = .ok a (((((s.enter x).setSched rest).setPeriph i p).setAppCmd c).moved .host path)) :
    finish x r op s = .next (((s.setPeriph i p).setAppCmd c).returned rest (r a)) := by
  obtain ⟨path, hrun⟩ := h
  rw [finish_ok hrun]
  simp [State.returned, State.setPeriph_setSched]

/-- Such an end of a call is within `ControllerOnly`, and leaves the session as it was. -/
theorem controllerOnly_of_periphWritten {x : Instr} {s : State} {i : Sdmmc} {p : Periph} {c : Bool} {rest : List (List Move)} {r : Result}
    (h : exec x s = .next (((s.setPeriph i p).setAppCmd c).returned rest r)) :
    ∃ t, exec x s = .next t ∧ ControllerOnly i rest r s t ∧ t.session = s.session := by
  refine ⟨_, h, ?_, State.setPeriph_session ..⟩
  cases i <;> rfl

/-- Settles O52: a failure of CMD13 is the result; where it gave `Ok`, the state field of `RESP1` is mapped. -/
theorem getStatusMapsTheState : Obligations.GetStatusMapsTheState := by
  unfold Obligations.GetStatusMapsTheState
  intro s i rca status rest hi hrca
  refine ⟨fun hst hs => ?_, fun hst hs => ?_, fun hs => ?_⟩
  · rw [← currentState_eq]
    exact finish_periphWritten (sdGetStatus_answered (s := s.enter .sdGetStatus) hi hrca hst hs)
  · exact controllerOnly_of_periphWritten (finish_periphWritten (sdGetStatus_rejected (s := s.enter .sdGetStatus) hi hrca hst hs))
  · exact controllerOnly_of_periphWritten (finish_periphWritten (sdGetStatus_silent (s := s.enter .sdGetStatus) hi hrca hs))

end Sys2Proof.Machine

/-! SUPPORT. Quiet boundaries at the head of a schedule that is otherwise open, and the steps taken at them. -/

namespace Sys2Proof.Machine

/-- Nothing happens at the first `n` boundaries of the schedule `x`; one that is used up has quiet boundaries only. -/
def Calm (n : Nat) (x : List (List Move)) : Prop := ∀ k < n, (x.drop k).headD [] = []

theorem calm_nil (n : Nat) : Calm n [] := fun k _ => by simp

theorem calm_quiet_append (n : Nat) (rest : List (List Move)) : Calm n (quiet n ++ rest) := by
  intro k hk
  obtain ⟨m, rfl⟩ : ∃ m, n = k + (m + 1) := ⟨n - k - 1, by omega⟩
  have hlen : (List.replicate k ([] : List Move)).length = k := List.length_replicate
  rw [quiet, ← List.replicate_append_replicate, List.append_assoc, List.drop_append_of_le_length (by omega), List.drop_of_length_le (by omega)]
  rfl

section
variable {n k : Nat} {x : List (List Move)}

theorem Calm.head (h : Calm (n + 1) x) : x.headD [] = [] := h 0 (Nat.succ_pos n)

theorem Calm.drop (h : Calm (k + n) x) : Calm n (x.drop k) := by
  intro j hj
  rw [List.drop_drop]
  exact h (k + j) (by omega)

theorem Calm.tail (h : Calm (n + 1) x) : Calm n x.tail := by
  rw [← List.drop_one]
  exact Calm.drop (Nat.add_comm n 1 ▸ h)

theorem Calm.mono (h : Calm n x) (hk : k ≤ n) : Calm k x := fun j hj => h j (by omega)

end

@[simp] theorem State.setXfer_setXfer (s : State) (x y : Transfer) : (s.setXfer x).setXfer y = s.setXfer y := rfl
@[simp] theorem State.setXfer_self (s : State) : s.setXfer s.xfer = s := rfl
@[simp] theorem State.setXfer_setPeriph (s : State) (x : Transfer) (i : Sdmmc) (p : Periph) :
    (s.setXfer x).setPeriph i p = (s.setPeriph i p).setXfer x := by cases i <;> rfl
@[simp] theorem State.setXfer_setSched (s : State) (x : Transfer) (y : List (List Move)) : (s.setXfer x).setSched y = (s.setSched y).setXfer x := rfl

section
variable {g : Agent} {f : Sdmmc → Act Unit} {cs : List Point} {pt : Point} {s : State} {i : Sdmmc}

/-- Clearing bits of a register at two quiet boundaries. -/
theorem regClr_calm (hq : Calm 2 s.sched) (hi : s.session.bound = some i) {r : Reg} (h : r ≠ .fifo) (m : Word) (proc : Proc) (line : Nat) :
    regClr (frameOf g f cs) proc line r m s = .ok () (((s.setSched (s.sched.drop 2)).setPeriph i
      ((s.periph i).write r ((s.periph i).value r &&& ~~~m))).moved g (cs ++ [⟨proc, line, 2⟩])) := by
  rw [regClr, run_bind_ok (regRead_quiet hq.head hi h), regWrite_quiet (i := i) (by simpa using hq.tail.head) (by simpa using hi)]
  simp [← List.tail_drop]

/-- Reading `S.Operation` at a quiet boundary. -/
theorem readOperation_quiet (hq : s.sched.headD [] = []) {op : Operation} (hop : s.xfer.operation = some op) :
    readOperation (frameOf g f cs) pt s = .ok op ((s.setSched s.sched.tail).moved g (cs ++ [pt])) := by
  rw [readOperation, run_bind_ok (step_quiet hq), run_readOr (by simpa using hop)]

theorem readOperation_unwritten (hq : s.sched.headD [] = []) (hop : s.xfer.operation = none) :
    ∃ t, readOperation (frameOf g f cs) pt s = .error (.fault .unwrittenSession) t := by
  rw [readOperation, run_bind_ok (step_quiet hq), run_readOr_none (by simpa using hop)]
  exact ⟨_, rfl⟩

end

/-! ### Registers that switch a transfer off -/

/-- Switching the DMA off changes, beside `IDMACTRL`, at most what `STA` shows of the FIFO. -/
theorem Periph.write_idmactrl_zero (p : Periph) : ∃ sta, p.write .idmactrl 0 = { p with idmactrl := 0, sta := sta } := by
  have h0 : (0 : Word).getLsbD 0 = false := rfl
  simp only [Periph.write, h0, Bool.not_false, Bool.and_true, Bool.false_eq_true, if_false, Periph.keepRx]
  split
  · exact ⟨_, rfl⟩
  · exact ⟨_, rfl⟩

/-- A write of every static flag to `ICR` clears them all (10 R59). -/
theorem clearedBy_staticFlags_and (sta : Word) : clearedBy sta staticFlags &&& staticFlags = 0 := by
  rw [clearedBy, BitVec.and_self, BitVec.and_assoc, BitVec.and_comm (~~~_), BitVec.and_not_self]
  exact BitVec.and_zero

theorem and_not_cmdtrans_bit (w : Word) : (w &&& ~~~cmdtrans).getLsbD 6 = false := by
  have h : (~~~cmdtrans).getLsbD 6 = false := by decide
  rw [BitVec.getLsbD_and, h, Bool.and_false]

/-! ### What a command leaves of a controller -/

/-- The controller `q` is what a command `c` with argument `a` leaves of `p`: only command registers changed, `CMDTRANS` did not, and no flag was
added (30 R100, 40 R160, R167). -/
structure CommandSent (c a : Word) (p q : Periph) : Prop where
  registers : CommandRegistersOnly p q
  argr : q.argr = a
  index : q.cmdr.extractLsb' 0 6 = c.extractLsb' 0 6
  cmdtrans : q.cmdr.getLsbD 6 = p.cmdr.getLsbD 6
  flags : ∀ m, p.sta &&& m = 0 → q.sta &&& m = 0

section
variable {c a : Word} {p q : Periph}

theorem CommandSent.mask (h : CommandSent c a p q) : q.mask = p.mask := (congrArg Periph.mask h.registers :)
theorem CommandSent.idmactrl (h : CommandSent c a p q) : q.idmactrl = p.idmactrl := (congrArg Periph.idmactrl h.registers :)
theorem CommandSent.dctrl (h : CommandSent c a p q) : q.dctrl = p.dctrl := (congrArg Periph.dctrl h.registers :)
theorem CommandSent.dlen (h : CommandSent c a p q) : q.dlen = p.dlen := (congrArg Periph.dlen h.registers :)

/-- A command whose wait ran out. -/
theorem commandSent_commanded (p : Periph) (clear : Word) {c : Word} (hc : c.toNat < 64) (a : Word) (rt : Int) :
    CommandSent c a p (p.commanded clear c a rt) where
  registers := rfl
  argr := rfl
  index := commandWord_index ..
  cmdtrans := by
    have h := commandWord_cmdtrans p.cmdr hc rt
    rwa [cmdtrans_eq, hasFlag_bit _ (by decide), hasFlag_bit _ (by decide)] at h
  flags m hm := by
    show p.sta &&& ~~~clear &&& m = 0
    rw [BitVec.and_assoc, BitVec.and_comm (~~~clear), ← BitVec.and_assoc, hm]
    exact BitVec.zero_and

/-- The end of a command clears a bit of `CMDR` that is neither in its index nor `CMDTRANS`. -/
theorem CommandSent.answered (h : CommandSent c a p q) (index response : Word) :
    CommandSent c a p { q.ended with respcmdr := index, resp1 := response } where
  registers := by
    rw [CommandRegistersOnly, h.registers]
    rfl
  argr := h.argr
  index := by
    rw [← h.index]
    apply BitVec.eq_of_getLsbD_eq
    intro n hn
    have hbit : ∀ n < 6, (~~~cpsmen).getLsbD n = true := by decide
    simp [Periph.ended, hbit n hn]
  cmdtrans := by
    have hbit : (~~~cpsmen).getLsbD 6 = true := by decide
    rw [← h.cmdtrans]
    show (q.cmdr &&& ~~~cpsmen).getLsbD 6 = _
    rw [BitVec.getLsbD_and, hbit, Bool.and_true]
  flags := h.flags

theorem commandSent_answeredShort (p : Periph) (clear : Word) {c : Word} (hc : c.toNat < 64) (a : Word) (rt : Int) (index response : Word) :
    CommandSent c a p (p.answeredShort clear c a rt index response) := (commandSent_commanded p clear hc a rt).answered index response

end

end Sys2Proof.Machine

/-! SUPPORT. Abort (60 R366, R367): the transfer switched off, then the card status poll, and the stop command for a busy card. -/

namespace Sys2Proof.Machine

/-! ### The transfer switched off -/

/-- The controller `q` is `p` with its transfer switched off: the transfer sources and the IDMA disabled, every static flag clear, and the data path
and `CMDTRANS` as they were. -/
structure SwitchedOff (p q : Periph) : Prop where
  mask : q.mask = p.mask &&& ~~~xferIrqs
  idmactrl : q.idmactrl = 0
  flags : q.flagsClear
  dctrl : q.dctrl = p.dctrl
  dlen : q.dlen = p.dlen
  cmdtrans : q.cmdr.getLsbD 6 = p.cmdr.getLsbD 6

/-- The controller after the first three lines of Abort. -/
def Periph.switchedOff (p : Periph) : Periph :=
  ((p.write .mask (p.mask &&& ~~~xferIrqs)).write .idmactrl 0).write .icr staticFlags

theorem switchedOff_switchedOff (p : Periph) : SwitchedOff p p.switchedOff := by
  obtain ⟨sta, h⟩ := (p.write .mask (p.mask &&& ~~~xferIrqs)).write_idmactrl_zero
  rw [Periph.switchedOff, h]
  exact ⟨rfl, rfl, clearedBy_staticFlags_and sta, rfl, rfl, rfl⟩

/-- A command leaves a transfer switched off. -/
theorem SwitchedOff.command {c a : Word} {p q r : Periph} (h : SwitchedOff p q) (hc : CommandSent c a q r) : SwitchedOff p r where
  mask := hc.mask.trans h.mask
  idmactrl := hc.idmactrl.trans h.idmactrl
  flags := hc.flags _ h.flags
  dctrl := hc.dctrl.trans h.dctrl
  dlen := hc.dlen.trans h.dlen
  cmdtrans := hc.cmdtrans.trans h.cmdtrans

/-! ### The card status poll of Abort -/

/-- `SD_Abort` from its card status poll on. -/
def abortPoll (b : Frame) : Act Err := do
  let e ← sdGetStatus (b.call ⟨.sdAbort, 4, 0⟩)
  if e = .busy then transmitCommand (b.call ⟨.sdAbort, 5, 0⟩) 12 0 1
  else do
    b.pass .sdAbort [(6, 0)]
    pure .ok

/-- A `CURRENT_STATE` outside 5 to 7 is not `Busy` (44 R325). -/
theorem statusOfState_ne_busy {n : Nat} (h : ¬(5 ≤ n ∧ n ≤ 7)) : statusOfState n ≠ .busy := by
  rw [statusOfState]
  split
  · decide
  · rw [if_neg (by omega)]
    decide

theorem statusOfState_busy {n : Nat} (h : 5 ≤ n ∧ n ≤ 7) : statusOfState n = .busy := by
  rw [statusOfState, if_neg (by omega), if_pos (by omega)]

/-- The first condition of a table is `Ok` or the error of one of its rows. -/
theorem firstCondition_cases (l : List (Nat × Err)) (r : Word) : firstCondition l r = .ok ∨ ∃ x ∈ l, firstCondition l r = x.2 := by
  induction l with
  | nil => exact .inl rfl
  | cons x xs ih =>
    rw [firstCondition]
    split
    · exact .inr ⟨x, List.mem_cons_self .., rfl⟩
    · exact ih.imp_right (fun ⟨y, hy, h⟩ => ⟨y, List.mem_cons_of_mem _ hy, h⟩)

/-- No error of a card status is `Busy` (40 R176). -/
theorem decodeCardStatus_ne_busy (r : Word) : decodeCardStatus r ≠ .busy := by
  have hrows : ∀ x ∈ cardStatusTable, x.2 ≠ .busy := by decide
  rw [decodeCardStatus]
  split
  · decide
  · rcases firstCondition_cases cardStatusTable r with h | ⟨x, hx, h⟩ <;> rw [h]
    · decide
    · exact hrows x hx

/-- From `s` to `t` nothing changed but the position of `HOST`, the mark of an accepted CMD55, the schedule, used up to `rest`, and the registers of
controller `i`, whose transfer is switched off. -/
def TurnedOff (i : Sdmmc) (rest : List (List Move)) (s t : State) : Prop :=
  ∃ (q : Periph) (c : Bool) (path : List Point),
    SwitchedOff (s.periph i) q ∧ t = (((s.setSched rest).setPeriph i q).setAppCmd c).moved .host path

section
variable {s t : State} {i : Sdmmc} {rest : List (List Move)}

theorem TurnedOff.session (h : TurnedOff i rest s t) : t.session = s.session := by
  obtain ⟨q, c, path, -, rfl⟩ := h
  simp

theorem TurnedOff.sched (h : TurnedOff i rest s t) : t.sched = rest := by
  obtain ⟨q, c, path, -, rfl⟩ := h
  simp

theorem TurnedOff.moved (h : TurnedOff i rest s t) (path : List Point) : TurnedOff i rest s (t.moved .host path) := by
  obtain ⟨q, c, path', hq, rfl⟩ := h
  exact ⟨q, c, path, hq, State.moved_moved ..⟩

/-- A command after the transfer was switched off. -/
theorem TurnedOff.command {c a : Word} {p : Periph} (h : TurnedOff i rest s t) (hc : CommandSent c a (t.periph i) p) (rest' : List (List Move))
    (mark : Bool) (path : List Point) : TurnedOff i rest' s ((((t.setSched rest').setPeriph i p).setAppCmd mark).moved .host path) := by
  obtain ⟨q, c', path', hq, rfl⟩ := h
  refine ⟨p, mark, path, hq.command (by simpa using hc), ?_⟩
  simp [State.setPeriph_setSched]

end

section
variable {s t u : State} {i : Sdmmc} {status : Word} {rest : List (List Move)} {e : Err}

/-- The first three lines of Abort, at quiet boundaries. -/
theorem sdAbort_polls (hi : s.session.bound = some i) (hq : Calm 4 s.sched) :
    ∃ t, TurnedOff i (s.sched.drop 4) s t ∧ sdAbort hostFrame s = abortPoll hostFrame t := by
  have h2 : Calm 2 (s.sched.drop 2) := hq.drop (k := 2)
  refine ⟨_, ⟨_, s.appCmd, [⟨.sdAbort, 3, 1⟩], switchedOff_switchedOff _, rfl⟩, ?_⟩
  have hmark : ((s.setSched (s.sched.drop 4)).setPeriph i (s.periph i).switchedOff).setAppCmd s.appCmd =
      (s.setSched (s.sched.drop 4)).setPeriph i (s.periph i).switchedOff := by cases i <;> rfl
  rw [hmark]
  rw [sdAbort, hostFrame, run_bind_ok (regClr_calm (hq.mono (by decide)) hi (by decide) ..),
      run_bind_ok (regWrite_quiet (i := i) (by simpa using h2.head) (by simpa using hi) ..),
      run_bind_ok (regWrite_quiet (i := i) (by simpa using h2.tail.head) (by simpa using hi) ..)]
  simp [abortPoll, Periph.switchedOff, Periph.value, State.setPeriph_setSched]

/-- A poll that does not say `Busy` is followed by no command, and `Ok` is returned (60 R367). -/
theorem abortPoll_idle (hu : TurnedOff i rest s u) (h : sdGetStatus (hostFrame.call ⟨.sdAbort, 4, 0⟩) t = .ok e u) (he : e ≠ .busy) :
    ∃ u, TurnedOff i rest s u ∧ abortPoll hostFrame t = .ok .ok u := by
  rw [abortPoll, run_bind_ok h, if_neg he, run_pass_bind]
  exact ⟨_, hu.moved _, rfl⟩

/-- A poll that says `Busy` is followed by the stop command, whose result is returned (60 R367). -/
theorem abortPoll_busy (hu : TurnedOff i (shortScript i 12 status ++ rest) s u) (hi : u.session.bound = some i)
    (h : sdGetStatus (hostFrame.call ⟨.sdAbort, 4, 0⟩) t = .ok .busy u) :
    ∃ u, TurnedOff i rest s u ∧ abortPoll hostFrame t = .ok (decodeCardStatus status) u := by
  rw [abortPoll, run_bind_ok h, if_pos rfl, hostFrame, transmit_r1 hi (by decide) 0 hu.sched (by decide)]
  exact ⟨_, hu.command (commandSent_answeredShort _ _ (by decide) ..) .., rfl⟩

end

/-! ### A call of Abort -/

/-- A call of Abort in `s` returns `e`, the schedule used up to `rest`: the transfer of controller `i` is switched off, the session kept. -/
def AbortReturns (i : Sdmmc) (rest : List (List Move)) (e : Err) (s : State) : Prop :=
  ∃ t, exec .sdAbort s = .next t ∧ ControllerOnly i rest (.err e) s t ∧ t.session = s.session ∧ SwitchedOff (s.periph i) (t.periph i)

section
variable {s : State} {i : Sdmmc} {rca : BitVec 16} {status stopped : Word} {rest : List (List Move)} {e : Err}

theorem abortReturns_of_run (h : ∃ t, TurnedOff i rest (s.enter .sdAbort) t ∧ sdAbort hostFrame (s.enter .sdAbort) = .ok e t) :
    AbortReturns i rest e s := by
  obtain ⟨_, ⟨q, c, path, hq, rfl⟩, hrun⟩ := h
  have hq' : SwitchedOff (s.periph i) q := by simpa using hq
  refine ⟨_, (finish_ok hrun :), ?_, by simp, by simpa using hq'⟩
  cases i <;> rfl

/-- Abort from its card status poll on: what is shown of every state in which it may poll holds of the call. -/
theorem abortReturns_of_poll (hi : s.session.bound = some i) {polls : List (List Move)} (hs : s.sched = quiet 4 ++ polls ∨ s.sched = [] ∧ polls = [])
    (h : ∀ t, TurnedOff i polls (s.enter .sdAbort) t → ∃ u, TurnedOff i rest (s.enter .sdAbort) u ∧ abortPoll hostFrame t = .ok e u) :
    AbortReturns i rest e s := by
  obtain ⟨hcalm, hdrop⟩ : Calm 4 s.sched ∧ s.sched.drop 4 = polls := by
    rcases hs with hs | ⟨hs, rfl⟩ <;> rw [hs]
    · exact ⟨calm_quiet_append 4 polls, rfl⟩
    · exact ⟨calm_nil 4, rfl⟩
  obtain ⟨t, ht, hrun⟩ := sdAbort_polls (s := s.enter .sdAbort) hi hcalm
  obtain ⟨u, hu, hpoll⟩ := h t (hdrop ▸ ht)
  exact abortReturns_of_run ⟨u, hu, hrun.trans hpoll⟩

/-- A card that answers the poll, and is not busy. -/
theorem abort_notBusy (hi : s.session.bound = some i) (hrca : s.session.rca = some rca) (hst : decodeCardStatus status = .ok)
    (hne : statusOfState (currentState status) ≠ .busy) (hs : s.sched = quiet 4 ++ (shortScript i 13 status ++ quiet 1 ++ rest)) :
    AbortReturns i rest .ok s := by
  refine abortReturns_of_poll hi (.inl hs) (fun t ht => ?_)
  obtain ⟨path, hpoll⟩ := sdGetStatus_answered (by simpa [ht.session] using hi) (by simpa [ht.session] using hrca) hst ht.sched
  exact abortPoll_idle (ht.command (commandSent_answeredShort _ _ (by decide) ..) ..) hpoll hne

/-- A busy card, which is stopped. -/
theorem abort_busy (hi : s.session.bound = some i) (hrca : s.session.rca = some rca) (hst : decodeCardStatus status = .ok)
    (hbusy : statusOfState (currentState status) = .busy)
    (hs : s.sched = quiet 4 ++ (shortScript i 13 status ++ quiet 1 ++ (shortScript i 12 stopped ++ rest))) :
    AbortReturns i rest (decodeCardStatus stopped) s := by
  refine abortReturns_of_poll hi (.inl hs) (fun t ht => ?_)
  have hi' : t.session.bound = some i := by simpa [ht.session] using hi
  obtain ⟨path, hpoll⟩ := sdGetStatus_answered hi' (by simpa [ht.session] using hrca) hst ht.sched
  exact abortPoll_busy (ht.command (commandSent_answeredShort _ _ (by decide) ..) ..) (by simpa using hi') (hbusy ▸ hpoll)

/-- A card that answers the poll with an error bit. -/
theorem abort_rejected (hi : s.session.bound = some i) (hrca : s.session.rca = some rca) (hst : decodeCardStatus status ≠ .ok)
    (hs : s.sched = quiet 4 ++ (shortScript i 13 status ++ rest)) : AbortReturns i rest .ok s := by
  refine abortReturns_of_poll hi (.inl hs) (fun t ht => ?_)
  obtain ⟨path, hpoll⟩ := sdGetStatus_rejected (by simpa [ht.session] using hi) (by simpa [ht.session] using hrca) hst ht.sched
  exact abortPoll_idle (ht.command (commandSent_answeredShort _ _ (by decide) ..) ..) hpoll (decodeCardStatus_ne_busy status)

/-- A card that does not answer the poll. -/
theorem abort_silent (hi : s.session.bound = some i) (hrca : s.session.rca = some rca) (hs : s.sched = []) : AbortReturns i [] .ok s := by
  refine abortReturns_of_poll hi (.inr ⟨hs, rfl⟩) (fun t ht => ?_)
  obtain ⟨path, hpoll⟩ := sdGetStatus_silent (by simpa [ht.session] using hi) (by simpa [ht.session] using hrca) ht.sched
  exact abortPoll_idle (ht.command (commandSent_commanded _ _ (by decide) ..) ..) hpoll (by decide)

end

/-- Settles O54: three lines switch the transfer off, then only a poll that says `Busy` leads to the stop command. -/
theorem abortStopsTheTransfer : Obligations.AbortStopsTheTransfer := by
  unfold Obligations.AbortStopsTheTransfer
  intro s i rca status stopped rest hi hrca busy quietAfter
  have hends : ∀ r e, AbortReturns i r e s → quietAfter r e := by
    rintro r e ⟨t, ht, honly, hsession, hoff⟩
    exact ⟨t, ht, honly, hsession, hoff.mask, hoff.idmactrl, hoff.flags, hoff.dctrl, hoff.dlen, hoff.cmdtrans⟩
  refine ⟨fun hs hst hnot => hends _ _ ?_, fun hs ⟨hst, hbusy⟩ => hends _ _ ?_, fun hs hst => hends _ _ ?_, fun hs => hends _ _ ?_⟩
  · refine abort_notBusy hi hrca hst (statusOfState_ne_busy ?_) (by simpa using hs)
    rw [currentState_eq]
    exact fun h => hnot ⟨hst, h⟩
  · exact abort_busy hi hrca hst (statusOfState_busy (by rwa [currentState_eq])) (by simpa using hs)
  · exact abort_rejected hi hrca hst (by simpa using hs)
  · exact abort_silent hi hrca hs

end Sys2Proof.Machine

/-! SUPPORT. The interrupt handler (60 R360 to R365): its entry and its exit, the transfer-end branch with its stop command, and the error branches. -/

namespace Sys2Proof.Machine

/-! ### The handler's position (10 R49) passes every other update -/

@[simp] theorem State.setIrqStep_setIrqStep (s : State) (x y : IrqStep) : (s.setIrqStep x).setIrqStep y = s.setIrqStep y := rfl
@[simp] theorem State.setIrqStep_setSched (s : State) (x : IrqStep) (y : List (List Move)) :
    (s.setIrqStep x).setSched y = (s.setSched y).setIrqStep x := rfl
@[simp] theorem State.setIrqStep_setXfer (s : State) (x : IrqStep) (y : Transfer) : (s.setIrqStep x).setXfer y = (s.setXfer y).setIrqStep x := rfl
@[simp] theorem State.setIrqStep_setAppCmd (s : State) (x : IrqStep) (y : Bool) :
    (s.setIrqStep x).setAppCmd y = (s.setAppCmd y).setIrqStep x := rfl
@[simp] theorem State.setIrqStep_setPeriph (s : State) (x : IrqStep) (i : Sdmmc) (p : Periph) :
    (s.setIrqStep x).setPeriph i p = (s.setPeriph i p).setIrqStep x := by cases i <;> rfl
@[simp] theorem State.moved_setIrqStep (s : State) (n : List Point) (x : IrqStep) : (s.moved .irq n).setIrqStep x = s.setIrqStep x := rfl

/-! ### The entry line and the steps common to every branch -/

/-- The entry line of a controller runs the handler (60 R356). -/
theorem exec_irqEntry (i : Sdmmc) (s : State) : exec (irqEntry i) s = finishOutside (runHandler irqHandler i) s := by cases i <;> rfl

/-- The state in which the handler stands before its first statement (60 R371). -/
def State.entered (s : State) : State := s.setIrqStep (.inside [])

/-- The interrupt of the bound controller is entered, handled and left (60 R370 to R372). -/
theorem runHandler_bound {s : State} {i : Sdmmc} (hi : s.session.bound = some i) (handler : Act Unit) :
    runHandler handler i s = (handler >>= fun _ => leaveIrq) s.entered := by
  rw [runHandler, run_getState_bind, if_pos hi]
  rfl

theorem exec_irqEntry_ok {s t : State} {i : Sdmmc} (hi : s.session.bound = some i) (h : irqHandler s.entered = .ok () t) :
    exec (irqEntry i) s = .next (t.setIrqStep .idle) := by
  rw [exec_irqEntry, finishOutside_ok ((runHandler_bound hi _).trans (run_bind_ok h))]

theorem exec_irqEntry_fault {s t : State} {i : Sdmmc} {e : Fault} (hi : s.session.bound = some i) (h : irqHandler s.entered = .error (.fault e) t) :
    exec (irqEntry i) s = .fault e := by
  rw [exec_irqEntry, finishOutside, (runHandler_bound hi _).trans (run_bind_error h)]

/-- The controller with the transfer sources of `MASK` disabled (60 R361). -/
def Periph.sourcesOff (p : Periph) : Periph := { p with mask := p.mask &&& ~~~xferIrqs }

/-- The state in which the handler selects its branch. -/
def State.atEvent (s : State) (i : Sdmmc) : State :=
  ((s.setSched (s.sched.drop 3)).setPeriph i (s.periph i).sourcesOff).moved .irq [⟨.irqHandler, 2, 2⟩]

/-- The last statement of the handler clears every static flag (60 R365). -/
def clearStatic (b : Frame) : Act Unit := regWrite b ⟨.irqHandler, 18, 1⟩ .icr staticFlags

section
variable {s t : State} {i : Sdmmc}

@[simp] theorem State.entered_session (s : State) : s.entered.session = s.session := rfl
@[simp] theorem State.entered_xfer (s : State) : s.entered.xfer = s.xfer := rfl
@[simp] theorem State.entered_sched (s : State) : s.entered.sched = s.sched := rfl
@[simp] theorem State.entered_periph (s : State) (i : Sdmmc) : s.entered.periph i = s.periph i := by cases i <;> rfl
@[simp] theorem State.atEvent_session (s : State) (i : Sdmmc) : (s.atEvent i).session = s.session := by simp [State.atEvent]
@[simp] theorem State.atEvent_xfer (s : State) (i : Sdmmc) : (s.atEvent i).xfer = s.xfer := by simp [State.atEvent]
@[simp] theorem State.atEvent_sched (s : State) (i : Sdmmc) : (s.atEvent i).sched = s.sched.drop 3 := by simp [State.atEvent]
@[simp] theorem State.atEvent_periph (s : State) (i : Sdmmc) : (s.atEvent i).periph i = (s.periph i).sourcesOff := by simp [State.atEvent]

/-- The first three steps of the handler, at quiet boundaries. -/
theorem irqHandler_selects (hi : s.session.bound = some i) (hq : Calm 3 s.sched) :
    irqHandler s = (handleEvent irqFrame (s.periph i).sta >>= fun _ => clearStatic irqFrame) (s.atEvent i) := by
  have hclr : Calm 2 s.sched.tail := hq.tail
  rw [irqHandler, irqFrame, run_bind_ok (regRead_quiet (i := i) (r := .sta) hq.head hi (by decide)),
    run_bind_ok (regClr_calm (i := i) (by simpa using hclr) (by simpa using hi) (by decide) ..)]
  simp [State.atEvent, clearStatic, Periph.value, Periph.write, Periph.sourcesOff]

/-- The handler, once its branch has run to its end. -/
theorem irqHandler_run (hi : s.session.bound = some i) (hq : Calm 3 s.sched)
    (h : handleEvent irqFrame (s.periph i).sta (s.atEvent i) = .ok () t) (hb : t.session.bound = some i) (ht : t.sched.headD [] = []) :
    irqHandler s = .ok () (((t.setSched t.sched.tail).setPeriph i ((t.periph i).write .icr staticFlags)).moved .irq [⟨.irqHandler, 18, 1⟩]) := by
  rw [irqHandler_selects hi hq, run_bind_ok h]
  exact regWrite_quiet ht hb .icr staticFlags

end

/-! ### The branches without `DATAEND` (60 R363, R364) -/

theorem hasFlag_dataend (sta : Word) : hasFlag sta dataend = sta.getLsbD 8 := hasFlag_bit sta (n := 8) (by decide)
theorem hasFlag_idmate (sta : Word) : hasFlag sta idmate = sta.getLsbD 27 := hasFlag_bit sta (n := 27) (by decide)
theorem hasFlag_dcrcfail (sta : Word) : hasFlag sta dcrcfail = sta.getLsbD 1 := hasFlag_bit sta (n := 1) (by decide)
theorem hasFlag_dtimeout (sta : Word) : hasFlag sta dtimeout = sta.getLsbD 3 := hasFlag_bit sta (n := 3) (by decide)
theorem hasFlag_txunderr (sta : Word) : hasFlag sta txunderr = sta.getLsbD 4 := hasFlag_bit sta (n := 4) (by decide)
theorem hasFlag_rxoverr (sta : Word) : hasFlag sta rxoverr = sta.getLsbD 5 := hasFlag_bit sta (n := 5) (by decide)

/-- `S.TransferError` after an entry without `DATAEND`, `old` before it. -/
def recordedError (sta : Word) (old : Err) : Err := if hasFlag sta idmate then .idmaError else (handlerError sta).getD old

/-- The priority of the errors, bit by bit (60 R360). -/
theorem recordedError_eq (sta : Word) (old : Err) : recordedError sta old =
    if sta.getLsbD 27 then .idmaError else if sta.getLsbD 1 then .dataCrcFail else if sta.getLsbD 3 then .dataTimeout
    else if sta.getLsbD 5 then .rxOverrun else if sta.getLsbD 4 then .txUnderrun else old := by
  simp only [recordedError, handlerError, hasFlag_idmate, hasFlag_dcrcfail, hasFlag_dtimeout, hasFlag_rxoverr, hasFlag_txunderr,
    apply_ite (Option.getD · old), Option.getD_some, Option.getD_none]

/-- The controller after the branch: a DMA error switches the IDMA off (60 R363). -/
def Periph.afterError (p : Periph) (sta : Word) : Periph := if hasFlag sta idmate then p.write .idmactrl 0 else p

section
variable {g : Agent} {f : Sdmmc → Act Unit} {cs : List Point} {pt : Point} {s : State} {i : Sdmmc} {sta : Word}

theorem recordError_still (hs : s.sched = []) (e : Err) : recordError (frameOf g f cs) pt e s =
    .ok () ((s.setXfer { s.xfer with error := e }).moved g (cs ++ [pt])) := by
  rw [recordError, xferWrite_quiet (by rw [hs]; rfl), hs, List.tail_nil, setSched_self hs]

/-- The branch of an entry without `DATAEND`, when the schedule is used up. -/
theorem handleEvent_error (hi : s.session.bound = some i) (hs : s.sched = []) (hd : hasFlag sta dataend = false) :
    ∃ path, handleEvent (frameOf g f cs) sta s = .ok ()
      (((s.setPeriph i ((s.periph i).afterError sta)).setXfer { s.xfer with error := recordedError sta s.xfer.error }).moved g path) := by
  rw [handleEvent, run_pass_bind, if_neg (by simp [hd]), run_pass_bind]
  cases hdma : hasFlag sta idmate with
  | true =>
    rw [if_pos rfl, run_bind_ok (regWrite_still (i := i) (by simpa using hs) (by simpa using hi) ..), recordError_still (by simpa using hs)]
    exact ⟨_, by simp [Periph.afterError, recordedError, hdma]; rfl⟩
  | false =>
    obtain ⟨l, ls, hl⟩ : ∃ l ls, tests (errorLines (handlerError sta)) false = l :: ls := by
      rcases handlerError sta with _ | e
      · exact ⟨_, _, rfl⟩
      · cases e <;> exact ⟨_, _, rfl⟩
    rw [if_neg nofun, hl, run_pass_bind]
    cases herr : handlerError sta with
    | none => exact ⟨_, by simp [Periph.afterError, recordedError, hdma, herr]; rfl⟩
    | some e =>
      refine ⟨cs ++ [⟨.irqHandler, errorLine e, 1⟩], (recordError_still (by simpa using hs) e).trans ?_⟩
      simp [Periph.afterError, recordedError, hdma, herr]

end

/-- The controller after an entry without `DATAEND` (60 R361, R363, R365). -/
def Periph.errorHandled (p : Periph) : Periph := (p.sourcesOff.afterError p.sta).write .icr staticFlags

/-- An entry without `DATAEND`, when the schedule is used up. -/
theorem exec_irqEntry_error {s : State} {i : Sdmmc} (hi : s.session.bound = some i) (hs : s.sched = [])
    (hd : hasFlag (s.periph i).sta dataend = false) : exec (irqEntry i) s = .next (((s.setPeriph i (s.periph i).errorHandled).setXfer
      { s.xfer with error := recordedError (s.periph i).sta s.xfer.error }).setIrqStep .idle) := by
  obtain ⟨path, hevent⟩ := handleEvent_error (g := .irq) (f := fun _ => pure ()) (cs := []) (s := s.entered.atEvent i) (i := i)
    (by simpa using hi) (by simp [hs]) hd
  have hrun := irqHandler_run (s := s.entered) hi (by simpa [hs] using calm_nil 3) (State.entered_periph s i ▸ hevent) (by simpa using hi)
    (by simp [hs])
  rw [exec_irqEntry_ok hi hrun]
  simp [State.atEvent, State.entered, hs, setSched_self, Periph.errorHandled]

/-- What such an entry changes of the controller. -/
theorem errorHandled_eq (p : Periph) : p.errorHandled = { p with
    mask := p.mask &&& ~~~0x0800013A, icr := 0x1FE00FFF, sta := p.errorHandled.sta,
    idmactrl := if p.sta.getLsbD 27 then 0 else p.idmactrl } := by
  rw [Periph.errorHandled, Periph.afterError, hasFlag_idmate]
  split
  · obtain ⟨sta, h⟩ := p.sourcesOff.write_idmactrl_zero
    rw [h]
    rfl
  · rfl

/-- Settles O59: the first error of the handler's order is recorded, and only a DMA error switches the IDMA off. -/
theorem handlerRecordsErrors : Obligations.HandlerRecordsErrors := by
  unfold Obligations.HandlerRecordsErrors
  intro s i hi hs hd p e
  refine ⟨_, exec_irqEntry_error hi hs ((hasFlag_dataend _).trans hd), ?_, ?_, ?_, ?_⟩
  · exact congrArg (fun x => { s.xfer with error := x }) (recordedError_eq p.sta s.xfer.error)
  · simp
  · simpa using errorHandled_eq p
  · simp only [State.setIrqStep_periph, State.setXfer_periph, State.periph_setPeriph]
    exact clearedBy_staticFlags_and _

/-! ### The transfer-end branch (60 R362) -/

/-- The Transfer State after the end of a transfer of direction `d`. -/
def Transfer.ended (x : Transfer) (d : Dir) : Transfer := { clearInProgress d x with complete := true, error := .ok }

theorem Transfer.ended_eq (x : Transfer) (d : Dir) : x.ended d = { x with
    complete := true, error := .ok
    rxCplt := if d = .read then false else x.rxCplt, txCplt := if d = .write then false else x.txCplt } := by cases d <;> rfl

/-- The controller when the transfer-end branch reads `S.Operation`: `CMDTRANS` and the IDMA are off. -/
def Periph.transferOff (p : Periph) : Periph := (p.write .cmdr (p.cmdr &&& ~~~cmdtrans)).write .idmactrl 0

/-- The last steps of the transfer-end branch: the end of the transfer is recorded. -/
def recordEnd (b : Frame) : Act Unit := do
  let op ← readOperation b ⟨.irqHandler, 8, 1⟩
  xferWrite b ⟨.irqHandler, 8, 2⟩ (clearInProgress op.dir)
  xferWrite b ⟨.irqHandler, 9, 1⟩ (fun x => { x with complete := true })
  recordError b ⟨.irqHandler, 10, 1⟩ .ok

/-- The transfer-end branch from its first read of `S.Operation` on. -/
def stopAndRecord (b : Frame) : Act Unit := do
  let op ← readOperation b ⟨.irqHandler, 6, 1⟩
  onlyIf (op.count = .multiple) (stopCommand b)
  recordEnd b

/-- What the stop command leaves of the controller: a single-block transfer sends none. -/
def Stopped (p q : Periph) : Count → Prop
  | .single => q = p
  | .multiple => CommandSent 12 0 p q

/-- The schedules, from the stop command on, over which the transfer-end branch is followed: quiet boundaries for its last five steps, before them no
command (single block), or CMD12 answered or met with silence. -/
def StopSlots (i : Sdmmc) (x : List (List Move)) : Count → Prop
  | .single => Calm 5 x
  | .multiple => x = [] ∨ ∃ status rest, x = shortScript i 12 status ++ (quiet 5 ++ rest)

/-- The controller `q` is what the transfer-end branch leaves of `p`. -/
structure TransferEnded (count : Count) (p q : Periph) : Prop where
  mask : q.mask = p.mask
  idmactrl : q.idmactrl = 0
  cmdtrans : q.cmdr.getLsbD 6 = false
  argr : count = .single → q.argr = p.argr
  stop : count = .multiple → q.argr = 0 ∧ q.cmdr.extractLsb' 0 6 = 12

theorem transferEnded_of_stopped {p q : Periph} {count : Count} (h : Stopped p.transferOff q count) : TransferEnded count p q := by
  obtain ⟨sta, hoff⟩ := (p.write .cmdr (p.cmdr &&& ~~~cmdtrans)).write_idmactrl_zero
  rw [Periph.transferOff, hoff] at h
  have hbit : (p.cmdr &&& ~~~cmdtrans).getLsbD 6 = false := and_not_cmdtrans_bit p.cmdr
  cases count with
  | single =>
    obtain rfl := h
    exact ⟨rfl, rfl, hbit, fun _ => rfl, nofun⟩
  | multiple => exact ⟨h.mask, h.idmactrl, h.cmdtrans.trans hbit, nofun, fun _ => ⟨h.argr, h.index⟩⟩

section
variable {g : Agent} {f : Sdmmc → Act Unit} {cs : List Point} {s : State} {i : Sdmmc} {op : Operation}

/-- The first three steps of the branch, at quiet boundaries. -/
theorem transferEnd_stops (hi : s.session.bound = some i) (hq : Calm 3 s.sched) : ∃ path, transferEnd (frameOf g f cs) s =
    stopAndRecord (frameOf g f cs) (((s.setSched (s.sched.drop 3)).setPeriph i (s.periph i).transferOff).moved g path) := by
  have h2 : Calm 1 (s.sched.drop 2) := hq.drop (k := 2)
  rw [transferEnd, run_bind_ok (regClr_calm (hq.mono (by decide)) hi (by decide) ..),
    run_bind_ok (regWrite_quiet (i := i) (by simpa using h2.head) (by simpa using hi) ..)]
  exact ⟨cs ++ [⟨.irqHandler, 5, 1⟩], by simp [stopAndRecord, recordEnd, Periph.transferOff, Periph.value, State.setPeriph_setSched]⟩

/-- The stop command, where one is sent; its result, an answer or silence, is discarded. -/
theorem stopCommand_run (hi : s.session.bound = some i) (hs : StopSlots i s.sched op.count) (m : List Point) :
    ∃ (q : Periph) (c : Bool) (path : List Point) (rest : List (List Move)), Stopped (s.periph i) q op.count ∧ Calm 5 rest ∧
      onlyIf (op.count = .multiple) (stopCommand (frameOf g f cs)) (s.moved g m) =
        .ok () ((((s.setSched rest).setPeriph i q).setAppCmd c).moved g path) := by
  cases hcount : op.count with
  | single =>
    rw [hcount] at hs
    refine ⟨s.periph i, s.appCmd, m, s.sched, rfl, hs, ?_⟩
    have hsame : ((s.setSched s.sched).setPeriph i (s.periph i)).setAppCmd s.appCmd = s := by cases i <;> rfl
    rw [hsame]
    rfl
  | multiple =>
    rw [hcount] at hs
    have hi' : (s.moved g m).session.bound = some i := by simpa using hi
    rcases hs with hs | ⟨status, rest, hs⟩
    · refine ⟨_, false, atEnd (cs ++ [⟨.irqHandler, 7, 0⟩]), [], commandSent_commanded _ s.clearMask (by decide) 0 1, calm_nil 5, ?_⟩
      refine (run_bind_ok (transmit_silent hi' (by decide) 0 (by decide) (by simpa using hs))).trans ?_
      simp [State.clearMask, setSched_self hs]
    · refine ⟨_, false, atEnd (cs ++ [⟨.irqHandler, 7, 0⟩]), _, commandSent_answeredShort _ s.clearMask (by decide) 0 1 12 status,
        calm_quiet_append 5 rest, (run_bind_ok (transmit_r1 hi' (by decide) 0 (by simpa using hs) (by decide))).trans ?_⟩
      simp [State.clearMask]

/-- The end of the transfer is recorded at quiet boundaries. -/
theorem recordEnd_run (hop : s.xfer.operation = some op) (hq : Calm 4 s.sched) : ∃ path, recordEnd (frameOf g f cs) s =
    .ok () (((s.setSched (s.sched.drop 4)).setXfer (s.xfer.ended op.dir)).moved g path) := by
  rw [recordEnd, run_bind_ok (readOperation_quiet hq.head hop), run_bind_ok (xferWrite_quiet (by simpa using hq.tail.head) _),
    run_bind_ok (xferWrite_quiet (by simpa using hq.tail.tail.head) _), recordError, xferWrite_quiet (by simpa using hq.tail.tail.tail.head) _]
  exact ⟨cs ++ [⟨.irqHandler, 10, 1⟩], by simp [Transfer.ended, ← List.tail_drop]⟩

/-- The transfer-end branch over a known schedule. -/
theorem transferEnd_run (hi : s.session.bound = some i) (hop : s.xfer.operation = some op) (hq : Calm 4 s.sched)
    (hs : StopSlots i (s.sched.drop 4) op.count) :
    ∃ (q : Periph) (c : Bool) (path : List Point) (rest : List (List Move)), TransferEnded op.count (s.periph i) q ∧ Calm 1 rest ∧
      transferEnd (frameOf g f cs) s =
        .ok () (((((s.setSched rest).setPeriph i q).setXfer (s.xfer.ended op.dir)).setAppCmd c).moved g path) := by
  have h3 : Calm 1 (s.sched.drop 3) := hq.drop (k := 3)
  obtain ⟨path, hstops⟩ := transferEnd_stops (g := g) (f := f) (cs := cs) hi (hq.mono (by decide))
  rw [hstops, stopAndRecord, run_bind_ok (readOperation_quiet (by simpa using h3.head) (by simpa using hop))]
  obtain ⟨q, c, path', rest, hstopped, hrest, hstop⟩ := stopCommand_run (g := g) (f := f) (cs := cs)
    (s := (s.setSched (s.sched.drop 4)).setPeriph i (s.periph i).transferOff) (by simpa using hi) (by simpa using hs) (cs ++ [⟨.irqHandler, 6, 1⟩])
  obtain ⟨path'', hrecord⟩ := recordEnd_run (g := g) (f := f) (cs := cs)
    (s := ((((s.setSched rest).setPeriph i q).setAppCmd c).moved g path')) (op := op) (by simpa using hop) (by simpa using hrest.mono (by decide))
  refine ⟨q, c, path'', rest.drop 4, transferEnded_of_stopped (by simpa using hstopped), hrest.drop (k := 4), ?_⟩
  have hstop' : onlyIf (op.count = .multiple) (stopCommand (frameOf g f cs))
      (((s.setSched (s.sched.drop 4)).setPeriph i (s.periph i).transferOff).moved g (cs ++ [⟨.irqHandler, 6, 1⟩])) =
      .ok () ((((s.setSched rest).setPeriph i q).setAppCmd c).moved g path') := by
    simpa [State.setPeriph_setSched] using hstop
  simp [State.setPeriph_setSched, run_bind_ok hstop', hrecord]

/-- With `S.Operation` unwritten the branch stops with a fault. -/
theorem transferEnd_fault (hi : s.session.bound = some i) (hop : s.xfer.operation = none) (hq : Calm 4 s.sched) :
    ∃ t, transferEnd (frameOf g f cs) s = .error (.fault .unwrittenSession) t := by
  have h3 : Calm 1 (s.sched.drop 3) := hq.drop (k := 3)
  obtain ⟨path, hstops⟩ := transferEnd_stops (g := g) (f := f) (cs := cs) hi (hq.mono (by decide))
  obtain ⟨t, ht⟩ := readOperation_unwritten (g := g) (f := f) (cs := cs) (pt := ⟨.irqHandler, 6, 1⟩)
    (s := ((s.setSched (s.sched.drop 3)).setPeriph i (s.periph i).transferOff).moved g path) (by simpa using h3.head) (by simpa using hop)
  exact ⟨t, hstops.trans (run_bind_error ht)⟩

theorem handleEvent_dataend {b : Frame} {sta : Word} (hd : hasFlag sta dataend = true) (s : State) :
    handleEvent b sta s = transferEnd b (s.moved b.agent (b.callers ++ [⟨.irqHandler, 3, 0⟩])) := by
  rw [handleEvent, run_pass_bind, if_pos hd]
  rfl

end

/-- An entry that sees `DATAEND`, over a known schedule. -/
theorem exec_irqEntry_dataend {s : State} {i : Sdmmc} {op : Operation} (hi : s.session.bound = some i)
    (hd : hasFlag (s.periph i).sta dataend = true) (hop : s.xfer.operation = some op) (hq : Calm 7 s.sched)
    (hs : StopSlots i (s.sched.drop 7) op.count) :
    ∃ (q : Periph) (c : Bool) (rest : List (List Move)), TransferEnded op.count (s.periph i).sourcesOff q ∧ exec (irqEntry i) s =
      .next (((((s.setSched rest).setPeriph i (q.write .icr staticFlags)).setXfer (s.xfer.ended op.dir)).setAppCmd c).setIrqStep .idle) := by
  obtain ⟨q, c, path, rest, hended, hrest, hbranch⟩ := transferEnd_run (g := .irq) (f := fun _ => pure ()) (cs := [])
    (s := (s.entered.atEvent i).moved .irq [⟨.irqHandler, 3, 0⟩]) (i := i) (op := op) (by simpa using hi) (by simpa using hop)
    (by simpa using hq.drop (k := 3)) (by simpa using hs)
  have hrun := irqHandler_run (s := s.entered) hi (hq.mono (by decide))
    ((handleEvent_dataend (by simpa using hd) _).trans hbranch) (by simpa using hi) (by simpa using hrest.head)
  refine ⟨q, c, rest.tail, by simpa using hended, ?_⟩
  rw [exec_irqEntry_ok hi hrun]
  simp [State.atEvent, State.entered, State.setPeriph_setSched]

theorem exec_irqEntry_unwritten {s : State} {i : Sdmmc} (hi : s.session.bound = some i) (hd : hasFlag (s.periph i).sta dataend = true)
    (hop : s.xfer.operation = none) (hq : Calm 7 s.sched) : exec (irqEntry i) s = .fault .unwrittenSession := by
  obtain ⟨t, hfault⟩ := transferEnd_fault (g := .irq) (f := fun _ => pure ()) (cs := [])
    (s := (s.entered.atEvent i).moved .irq [⟨.irqHandler, 3, 0⟩]) (i := i) (by simpa using hi) (by simpa using hop)
    (by simpa using hq.drop (k := 3))
  have hevent : handleEvent irqFrame (s.entered.periph i).sta (s.entered.atEvent i) = .error (.fault .unwrittenSession) t :=
    (handleEvent_dataend (by simpa using hd) _).trans hfault
  exact exec_irqEntry_fault hi ((irqHandler_selects (s := s.entered) hi (hq.mono (by decide))).trans (run_bind_error hevent))

/-- The schedules of 60 R362 are quiet up to the stop command, and are then as `StopSlots` says. -/
theorem calm_stopSlots {i : Sdmmc} {count : Count} {status : Word} {x rest : List (List Move)}
    (h : x = [] ∨ (count = .single ∧ x = quiet 12 ++ rest) ∨
      (count = .multiple ∧ x = quiet 7 ++ shortScript i 12 status ++ quiet 5 ++ rest)) : Calm 7 x ∧ StopSlots i (x.drop 7) count := by
  rcases h with rfl | ⟨rfl, rfl⟩ | ⟨rfl, rfl⟩
  · refine ⟨calm_nil 7, ?_⟩
    cases count with
    | single => exact calm_nil 5
    | multiple => exact .inl rfl
  · exact ⟨(calm_quiet_append 12 rest).mono (by decide), (calm_quiet_append 12 rest).drop (k := 7)⟩
  · rw [List.append_assoc, List.append_assoc]
    exact ⟨calm_quiet_append 7 _, .inr ⟨status, rest, rfl⟩⟩

/-- Settles O58: the branch runs over quiet boundaries but for the stop command, which writes command registers only. -/
theorem handlerEndsTheTransfer : Obligations.HandlerEndsTheTransfer := by
  unfold Obligations.HandlerEndsTheTransfer
  intro s i op status rest hi hd
  have hd' : hasFlag (s.periph i).sta dataend = true := (hasFlag_dataend _).trans hd
  refine ⟨fun hop hs => ?_, fun hop hs => exec_irqEntry_unwritten hi hd' hop (hs ▸ calm_nil 7)⟩
  obtain ⟨hq, hslots⟩ := calm_stopSlots hs
  obtain ⟨q, c, r, hended, hexec⟩ := exec_irqEntry_dataend hi hd' hop hq hslots
  refine ⟨_, hexec, s.xfer.ended_eq op.dir, ?_, ?_, rfl, ?_, ?_, fun j hj => ?_, ?_, ?_, ?_, ?_, fun h => ?_, fun h => ?_⟩
  · simp
  · simp
  · simp
  · simp
  · simp [State.periph_setPeriph_ne _ _ hj]
  all_goals simp only [State.setIrqStep_periph, State.setAppCmd_periph, State.setXfer_periph, State.periph_setPeriph]
  · exact hended.mask
  · exact hended.idmactrl
  · exact hended.cmdtrans
  · exact clearedBy_staticFlags_and _
  · exact hended.argr h
  · exact hended.stop h

end Sys2Proof.Machine

/-! SUPPORT. Reset (70 R401): the registers of a controller after reset, and a read of the empty FIFO. -/

namespace Sys2Proof.Machine

/-- A controller holds 0 in every register after reset, the receive FIFO no word. -/
theorem Periph.reset_value (r : Reg) : Periph.reset.value r = 0 := by cases r <;> rfl

@[simp] theorem State.reset_periph (i : Sdmmc) : State.reset.periph i = Periph.reset := by cases i <;> rfl

/-- A draw returns the next free value and leaves all else. -/
theorem run_drawWord (s : State) : drawWord s = .ok (Config.freeWord s.draws) (s.setDraws (s.draws + 1)) := rfl

/-- A register read of the empty FIFO, after a boundary that led to `t` (93 U19). -/
theorem regRead_emptyFifo {b : Frame} {pt : Point} {s t : State} {i : Sdmmc} (hb : b.step pt s = .ok () t) (hi : t.session.bound = some i)
    (hempty : (t.periph i).fifo = []) : regRead b pt .fifo s = .ok (Config.freeWord t.draws)
      ((t.setPeriph i ((t.periph i).afterRead .fifo)).setDraws (t.draws + 1)) := by
  rw [regRead, run_bind_ok hb, run_getState_bind, boundRegister_some hi]
  show (if (decide (Reg.fifo = Reg.fifo) && (t.periph i).fifo.isEmpty) = true then drawWord else pure ((t.periph i).value .fifo))
    (t.setPeriph i ((t.periph i).afterRead .fifo)) = _
  rw [if_pos (by simp [hempty]), run_drawWord, State.setPeriph_draws]

/-- Settles O12: the reset state by its fields, and a read of the empty FIFO by the draw it makes. -/
theorem resetValues : Obligations.ResetValues := by
  unfold Obligations.ResetValues
  refine ⟨rfl, rfl, rfl, rfl, fun i r _ => ?_, fun i => ?_, fun s i pt hi hempty hs => ?_⟩
  · rw [State.reset_periph, Periph.reset_value]
  · rw [State.reset_periph]
    exact ⟨rfl, rfl⟩
  · have hstep : hostFrame.step pt s = .ok () ((s.setSched s.sched.tail).moved .host [pt]) := step_quiet (by rw [hs]; rfl)
    have hread := regRead_emptyFifo (i := i) hstep (by simpa using hi) (by simpa using hempty)
    exact ⟨_, hread, by simp⟩

end Sys2Proof.Machine

/-! SUPPORT. Encodings (30_encoding.md): the decoder over the words of an encoded instruction, and what every decoded instruction satisfies. -/

namespace Sys2Proof

/-! ### Words as bytes (20 R84) -/

@[simp] theorem wordOfBytes_wordBytes (w : Word) :
    wordOfBytes (w.extractLsb' 0 8) (w.extractLsb' 8 8) (w.extractLsb' 16 8) (w.extractLsb' 24 8) = w := by
  apply BitVec.eq_of_getLsbD_eq
  intro n hn
  simp only [wordOfBytes, BitVec.getLsbD_append, BitVec.getLsbD_extractLsb']
  grind

@[simp] theorem wordsOfBytes_flatMap (ops : List Word) : wordsOfBytes (ops.flatMap wordBytes) = some ops := by
  induction ops with
  | nil => rfl
  | cons w rest ih => simp [wordBytes, wordsOfBytes, ih]

/-- A host call with its operand words is read by its selector. -/
theorem decode_callCode (appCmd : Bool) (sel : Byte) (ops : List Word) :
    decode appCmd (callCode sel ops) = decodeSelector sel.toNat ops := by
  simp [callCode, decode]

/-- A command word with its operand words is read by the word. -/
theorem decode_commandCode (appCmd : Bool) (w : Word) (ops : List Word) :
    decode appCmd (commandCode w ops) = decodeCommandWord appCmd w ops := by
  rw [commandCode, decode, wordsOfBytes_flatMap]

/-- An instruction whose operands are in range passes the decoder's check. -/
theorem checked_of_wf {i : Instr} (h : i.wf = true) : checked i = .ok i := if_pos h

/-- Settles O2: the bytes of every encoding are the words of its row, and the decoder's row for them gives the instruction back. -/
theorem decodeEncodeAgree : Obligations.DecodeEncodeAgree := by
  unfold Obligations.DecodeEncodeAgree
  refine ⟨fun i => by cases i <;> rfl, fun i appCmd c hwf hread hc => ?_⟩
  cases i with
  | decodeCardStatus r | decodeR6 r => cases hc
  | cmd13 | acmd13 =>
    cases hc
    cases appCmd <;> cases hread
    exact decode_commandCode ..
  | cmd0 | cmd2 | cmd3 | cmd7 | cmd8 | cmd9 | cmd12 | cmd17 n | cmd18 n | cmd24 n | cmd25 n | acmd41 | acmd51 =>
    cases hc
    exact decode_commandCode ..
  | cmd16 x | cmd55 x | acmd6 x =>
    cases hc
    rw [decode_commandCode]
    cases x <;> rfl
  | sdInitializeLL x | wideBusOperationConfig x =>
    cases hc
    rw [decode_callCode]
    cases x <;> rfl
  | sdInit d | transmitCommand c' a rt | classify c' rt =>
    cases hc
    exact (decode_callCode ..).trans (checked_of_wf hwf)
  | _ =>
    cases hc
    exact decode_callCode ..

/-! ### What every decoded instruction satisfies (30 R131) -/

/-- The instruction is in range, has an encoding, and is one that is read after the command before it. -/
def Instr.admitted (appCmd : Bool) (i : Instr) : Prop := i.wf = true ∧ i.encodable = true ∧ i.readAfter appCmd = true

/-- What a decoder returns, if anything, is admitted. -/
def Admits (appCmd : Bool) (r : Except DecodeError Instr) : Prop := ∀ i, r = .ok i → i.admitted appCmd

section
variable {appCmd : Bool}

theorem admits_error (e : DecodeError) : Admits appCmd (.error e) := fun _ h => by cases h

theorem admits_ok {i : Instr} (h : i.admitted appCmd) : Admits appCmd (.ok i) := fun _ hi => by cases hi; exact h

theorem admits_noOperand {i : Instr} (h : i.admitted appCmd) (ops : List Word) : Admits appCmd (noOperand i ops) := by
  cases ops with
  | nil => exact admits_ok h
  | cons => exact admits_error _

theorem admits_oneOperand {f : Word → Except DecodeError Instr} (h : ∀ a, Admits appCmd (f a)) (ops : List Word) :
    Admits appCmd (oneOperand f ops) := by
  match ops with
  | [] => exact admits_error _
  | [a] => exact h a
  | _ :: _ :: _ => exact admits_error _

theorem admits_fourOperands {f : Word → Word → Word → Word → Instr} (h : ∀ a b c d, (f a b c d).admitted appCmd) (ops : List Word) :
    Admits appCmd (fourOperands f ops) := by
  unfold fourOperands
  split
  · exact admits_ok (h ..)
  · exact admits_error _
  all_goals exact admits_error _

theorem admits_map {α : Type} {f : α → Instr} (h : ∀ x, (f x).admitted appCmd) (r : Except DecodeError α) : Admits appCmd (r.map f) := by
  cases r with
  | error e => exact admits_error e
  | ok x => exact admits_ok (h x)

/-- The decoder's check leaves the encoding and the reading to be shown. -/
theorem admits_checked {i : Instr} (he : i.encodable = true) (hr : i.readAfter appCmd = true) : Admits appCmd (checked i) := by
  unfold checked
  split
  next hwf => exact admits_ok ⟨hwf, he, hr⟩
  next => exact admits_error _

theorem admits_decodeSelector (sel : Nat) (ops : List Word) : Admits appCmd (decodeSelector sel ops) := by
  unfold decodeSelector
  split
  case h_1 | h_19 => exact admits_oneOperand (fun a => admits_map (fun _ => ⟨rfl, rfl, rfl⟩) _) ops
  case h_2 => exact admits_oneOperand (fun a => admits_checked rfl rfl) ops
  case h_3 | h_4 => exact admits_fourOperands (fun _ _ _ _ => ⟨rfl, rfl, rfl⟩) ops
  case h_9 => exact admits_oneOperand (fun a => admits_ok ⟨rfl, rfl, rfl⟩) ops
  case h_12 | h_13 =>
    split
    · exact admits_checked rfl rfl
    · exact admits_error _
  case h_23 => exact admits_error _
  all_goals exact admits_noOperand ⟨rfl, rfl, rfl⟩ ops

theorem admits_decodeCommandWord (w : Word) (ops : List Word) : Admits appCmd (decodeCommandWord appCmd w ops) := by
  unfold decodeCommandWord
  split
  case h_8 => exact admits_noOperand (by cases appCmd <;> exact ⟨rfl, rfl, rfl⟩) ops
  case h_9 | h_14 | h_15 => exact admits_oneOperand (fun a => admits_map (fun _ => ⟨rfl, rfl, rfl⟩) _) ops
  case h_10 | h_11 | h_12 | h_13 => exact admits_oneOperand (fun a => admits_ok ⟨rfl, rfl, rfl⟩) ops
  case h_18 => exact admits_error _
  all_goals exact admits_noOperand ⟨rfl, rfl, rfl⟩ ops

theorem admits_decode (c : Code) : Admits appCmd (decode appCmd c) := by
  unfold decode
  split
  · exact admits_error _
  · split
    · exact admits_decodeSelector _ _
    · exact admits_error _
  · split
    · exact admits_decodeCommandWord _ _
    · exact admits_error _
    · exact admits_error _

end

/-- Settles O3: every row of the two tables admits what it reads. -/
theorem decodedInstructionsAdmitted : Obligations.DecodedInstructionsAdmitted := by
  unfold Obligations.DecodedInstructionsAdmitted
  exact fun appCmd c i h => admits_decode c i h

/-- Settles O1: the decoder runs on the bytes of each word. -/
theorem tableWordsDecode : Obligations.TableWordsDecode := by
  unfold Obligations.TableWordsDecode
  and_intros <;> rfl

end Sys2Proof

/-! SUPPORT. Calls the block refuses (30 R102, R131, R132), and the fields of the command word (30 R100, R101). -/

namespace Sys2Proof.Machine

/-! ### Fetching a line of the program (30 R131, R135) -/

section
variable {s : State} {c : Code} {rest : List Line}

theorem fetch_decoded (hp : s.program = .code c :: rest) {i : Instr} (hd : decode s.appCmd c = .ok i) :
    fetch s = .instr i { s with program := rest } := by
  rw [fetch, hp]
  simp only [hd]

theorem fetch_undecoded (hp : s.program = .code c :: rest) {e : DecodeError} (hd : decode s.appCmd c = .error e) : fetch s = .bad e := by
  rw [fetch, hp]
  simp only [hd]

theorem step_decoded (hidle : s.hostStep = .idle) (hp : s.program = .code c :: rest) {i : Instr} (hd : decode s.appCmd c = .ok i) :
    step s = exec i { s with program := rest } := by
  conv => lhs; rw [step, hidle]
  rw [fetch_decoded hp hd]

theorem step_undecoded (hidle : s.hostStep = .idle) (hp : s.program = .code c :: rest) {e : DecodeError} (hd : decode s.appCmd c = .error e) :
    step s = .refused .badCall := by
  conv => lhs; rw [step, hidle]
  rw [fetch_undecoded hp hd]

end

/-! ### Host calls outside the table (30 R130, R131) -/

theorem decodeSelector_unknown {sel : Nat} (h : sel ∉ [0x01, 0x02, 0x03, 0x04, 0x05, 0x06, 0x07, 0x08, 0x09, 0x0A, 0x0B, 0x20, 0x21, 0x22,
    0x23, 0x24, 0x25, 0x26, 0x27, 0x28, 0x40, 0x41]) (ops : List Word) : decodeSelector sel ops = .error .unknownSelector := by
  simp only [List.mem_cons, List.not_mem_nil, not_or, or_false] at h
  unfold decodeSelector
  split <;> simp_all

theorem decode_call_unknown (appCmd : Bool) {sel : Byte} (h : sel.toNat ∉ [0x01, 0x02, 0x03, 0x04, 0x05, 0x06, 0x07, 0x08, 0x09, 0x0A, 0x0B,
    0x20, 0x21, 0x22, 0x23, 0x24, 0x25, 0x26, 0x27, 0x28, 0x40, 0x41]) (operands : List Byte) :
    ∃ e, decode appCmd (.call (sel :: operands)) = .error e := by
  simp only [decode]
  cases wordsOfBytes operands with
  | none => exact ⟨_, rfl⟩
  | some ops => exact ⟨_, decodeSelector_unknown h ops⟩

theorem sdmmcOfPosition_outside {a : Word} (h : 2 ≤ a.toNat) : sdmmcOfPosition a = .error .badOperand := by
  rw [sdmmcOfPosition, if_neg (by rintro rfl; simp at h), if_neg (by rintro rfl; simp at h)]

theorem modeOfPosition_outside {a : Word} (h : 3 ≤ a.toNat) : modeOfPosition a = .error .badOperand := by
  rw [modeOfPosition, if_neg (by rintro rfl; simp at h), if_neg (by rintro rfl; simp at h), if_neg (by rintro rfl; simp at h)]

theorem commandInRange_outside {c : Word} (h : 64 ≤ c.toNat) : commandInRange c = false := by simp [commandInRange, h]

theorem clockDividerInRange_outside {d : Word} (h : 1024 ≤ d.toNat) : clockDividerInRange d = false := by simp [clockDividerInRange, h]

theorem checked_outside {i : Instr} (h : i.wf = false) : checked i = .error .badOperand := by simp [checked, h]

/-- An operand outside its range is no instruction (30 R131). -/
theorem decodeSelector_outside {sel : Byte} {ops : List Word}
    (h : (∃ a, sel = 0x01 ∧ ops = [a] ∧ 2 ≤ a.toNat) ∨ (∃ d, sel = 0x02 ∧ ops = [d] ∧ 1024 ≤ d.toNat)
      ∨ (∃ c a rt, sel = 0x20 ∧ ops = [c, a, rt] ∧ 64 ≤ c.toNat) ∨ (∃ c rt, sel = 0x21 ∧ ops = [c, rt] ∧ 64 ≤ c.toNat)
      ∨ (∃ a, sel = 0x27 ∧ ops = [a] ∧ 3 ≤ a.toNat)) : decodeSelector sel.toNat ops = .error .badOperand := by
  rcases h with ⟨a, rfl, rfl, ha⟩ | ⟨d, rfl, rfl, hd⟩ | ⟨c, a, rt, rfl, rfl, hc⟩ | ⟨c, rt, rfl, rfl, hc⟩ | ⟨a, rfl, rfl, ha⟩
  · show (sdmmcOfPosition a).map _ = _
    rw [sdmmcOfPosition_outside ha]
    rfl
  · exact checked_outside (clockDividerInRange_outside hd)
  · exact checked_outside (commandInRange_outside hc)
  · exact checked_outside (commandInRange_outside hc)
  · show (modeOfPosition a).map _ = _
    rw [modeOfPosition_outside ha]
    rfl

/-! ### The meanings refuse the same operands (30 R131) -/

theorem exec_sdInit_outside {d : Word} (h : 1024 ≤ d.toNat) (s : State) : exec (.sdInit d) s = .refused .badCall := by
  show finish _ _ (sdInit hostFrame d) s = _
  rw [sdInit, clockDividerInRange_outside h]
  rfl

theorem exec_transmitCommand_outside {c : Word} (h : 64 ≤ c.toNat) (a rt : Word) (s : State) :
    exec (.transmitCommand c a rt) s = .refused .badCall := by
  show execTransmitCommand c a rt s = _
  rw [execTransmitCommand, commandInRange_outside h]
  rfl

theorem exec_classify_outside {c : Word} (h : 64 ≤ c.toNat) (rt : Word) (s : State) : exec (.classify c rt) s = .refused .badCall := by
  show execClassify c rt s = _
  rw [execClassify, commandInRange_outside h]
  rfl

/-- Settles O4: such a line decodes to no instruction, and the meanings make the same check first. -/
theorem callsOutsideTableRefused : Obligations.CallsOutsideTableRefused := by
  unfold Obligations.CallsOutsideTableRefused
  refine ⟨fun s rest sel operands hidle hp hsel => ?_, fun s rest sel ops hidle hp hops => ?_, fun s d hd => exec_sdInit_outside hd s,
    fun s c a rt hc => ⟨exec_transmitCommand_outside hc a rt s, exec_classify_outside hc rt s⟩⟩
  · obtain ⟨e, he⟩ := decode_call_unknown s.appCmd hsel operands
    exact step_undecoded hidle hp he
  · exact step_undecoded hidle hp ((decode_callCode ..).trans (decodeSelector_outside hops))

/-! ### The command word (30 R100 to R102) -/

/-- A bit of the command word: kept where the mask is 0, else of the index, the response code or `CPSMEN`. -/
theorem commandWord_bit (old c : Word) (rt : Int) (n : Nat) : (commandWord old c rt).getLsbD n =
    ((old.getLsbD n && !cmdClearMask.getLsbD n) || c.getLsbD n || (waitResp rt <<< 8).getLsbD n || cpsmen.getLsbD n) := by
  by_cases hn : n < 32
  · simp [commandWord, hn]
  · simp [fun w : Word => w.getLsbD_of_ge n (by omega)]

/-- Outside the cleared fields the command word holds the bits it is written over. -/
theorem commandWord_kept (old : Word) {c : Word} (hc : c.toNat < 64) (rt : Int) {n : Nat} (hm : cmdClearMask.getLsbD n = false) (h6 : 6 ≤ n)
    (h10 : n < 8 ∨ 10 ≤ n) (hp : cpsmen.getLsbD n = false) : (commandWord old c rt).getLsbD n = old.getLsbD n := by
  have hw : (waitResp rt <<< 8).getLsbD n = false := by
    rcases h10 with h | h
    · simp [h]
    · simp [waitResp_bit rt (n := n - 8) (by omega)]
  simp [commandWord_bit, hm, index_bit hc h6, hw, hp]

/-- A field that the transport keeps. -/
theorem commandWord_field_kept (old : Word) {c : Word} (hc : c.toNat < 64) (rt : Int) {lo len : Nat} (h6 : 6 ≤ lo)
    (h : ∀ k < len, cmdClearMask.getLsbD (lo + k) = false ∧ (lo + k < 8 ∨ 10 ≤ lo + k) ∧ cpsmen.getLsbD (lo + k) = false) :
    (commandWord old c rt).extractLsb' lo len = old.extractLsb' lo len := by
  apply BitVec.eq_of_getLsbD_eq
  intro k hk
  obtain ⟨hm, h10, hp⟩ := h k hk
  rw [BitVec.getLsbD_extractLsb', BitVec.getLsbD_extractLsb', commandWord_kept old hc rt hm (by omega) h10 hp]

/-- A bit that the transport clears and sets to 0. -/
theorem commandWord_cleared (old : Word) {c : Word} (hc : c.toNat < 64) (rt : Int) {n : Nat} (hm : cmdClearMask.getLsbD n = true) (h10 : 10 ≤ n)
    (hp : cpsmen.getLsbD n = false) : (commandWord old c rt).getLsbD n = false := by
  simp [commandWord_bit, hm, index_bit hc (by omega : 6 ≤ n), waitResp_bit rt (by omega : 2 ≤ n - 8), hp]

theorem exec_transmitCommand_badResponseType {c : Word} (hc : c ∈ issuedCommands) (a : Word) {rt : Word}
    (hrt : responseTypeAdmitted rt.toInt = false) (s : State) : exec (.transmitCommand c a rt) s = .refused .badResponseType := by
  rw [exec_transmitCommand hc, transmitCommand, hrt]
  rfl

theorem exec_transmitCommand_notIssued {c : Word} (hc : c.toNat < 64) (hi : c ∉ issuedCommands) (a rt : Word) (s : State) :
    exec (.transmitCommand c a rt) s = .refused .commandNotIssued := by
  have hr : commandInRange c = true := decide_eq_true hc
  have hn : issuedCommands.contains c = false := by simpa using hi
  show execTransmitCommand c a rt s = _
  rw [execTransmitCommand, hr, hn]
  rfl

theorem responseTypeAdmitted_eq_false {rt : Word} (h0 : rt ≠ 0) (h1 : rt ≠ 1) (h2 : rt ≠ 2) (h3 : rt ≠ 3) (h6 : rt ≠ 6) :
    responseTypeAdmitted rt.toInt = false := by
  obtain ⟨e1, e2, e3, e6⟩ := toInt_eq_responseType rt
  have e0 : rt = 0 ↔ rt.toInt = 0 := ⟨fun h => by simp [h], fun h => BitVec.eq_of_toInt_eq h⟩
  simpa [responseTypeAdmitted, ← e0, ← e1, ← e2, ← e3, ← e6] using ⟨h0, h1, h2, h3, h6⟩

/-- Settles O5: each field by its bits, and the two refusals in the order of the call. -/
theorem commandWordFields : Obligations.CommandWordFields := by
  unfold Obligations.CommandWordFields
  refine ⟨fun old c rt hc => ?_, fun s c a rt hc => ⟨fun hi h0 h1 h2 h3 h6 => ?_, fun hi => ?_⟩⟩
  · have hw := commandWord_waitResp old hc rt
    refine ⟨commandWord_index old c rt, commandWord_field_kept old hc rt (by decide) (by decide), ?_, ?_, ?_, ?_, ?_, ?_,
      commandWord_field_kept old hc rt (by decide) (by decide), commandWord_cleared old hc rt (by decide) (by decide) (by decide),
      commandWord_field_kept old hc rt (by decide) (by decide)⟩
    · rintro rfl; exact hw
    · rintro (rfl | rfl) <;> exact hw
    · rintro rfl; exact hw
    · rintro rfl; exact hw
    · apply BitVec.eq_of_getLsbD_eq
      intro k hk
      have hbit : (commandWord old c rt).getLsbD (10 + k) = false := by
        obtain rfl | rfl : k = 0 ∨ k = 1 := by omega
        · exact commandWord_cleared old hc rt (by decide) (by decide) (by decide)
        · exact commandWord_cleared old hc rt (by decide) (by decide) (by decide)
      simp [hbit]
    · simp [commandWord_bit, cpsmen]
  · exact exec_transmitCommand_badResponseType ((mem_issuedCommands_iff c).2 hi) a (responseTypeAdmitted_eq_false h0 h1 h2 h3 h6) s
  · exact exec_transmitCommand_notIssued hc (fun h => hi ((mem_issuedCommands_iff c).1 h)) a rt s

end Sys2Proof.Machine

/-! SUPPORT. The step of the machine (10 section 3, 30 R135): what `HOST` does next, and the interrupt at a step boundary (60 R370 to R372). -/

namespace Sys2Proof.Machine

section
variable {s : State}

/-! ### What `HOST` does next -/

theorem step_hold {p : Place} {path : List Point} (h : s.hostStep = .inside p path) (hp : ∀ i, p = .call i → path ≠ []) : step s = resume p s := by
  rw [step, h]
  cases p with
  | call i =>
    cases path with
    | nil => exact absurd rfl (hp i rfl)
    | cons => rfl
  | _ => rfl

theorem step_call {i : Instr} (h : s.hostStep = .inside (.call i) []) : step s = exec i (s.setHostStep .idle) := by
  conv => lhs; rw [step, h]

theorem step_noLine (hidle : s.hostStep = .idle) (hp : s.program = []) : step s = runIdle s := by
  rw [step, hidle]
  simp only [fetch, hp]

theorem step_outside {l : Line} {rest : List Line} (hidle : s.hostStep = .idle) (hp : s.program = l :: rest) (hl : ∀ c, l ≠ .code c) :
    step s = runOutside l { s with program := rest } := by
  conv => lhs; rw [step, hidle]
  cases l with
  | code c => exact absurd rfl (hl c)
  | _ => simp only [fetch, hp]

end

/-- Settles O6: one case of `step` for each thing `HOST` may find. -/
theorem stepRunsDecodedInstruction : Obligations.StepRunsDecodedInstruction := by
  unfold Obligations.StepRunsDecodedInstruction
  exact ⟨fun s c rest hidle hp => ⟨fun i hd => step_decoded hidle hp hd, fun e hd => step_undecoded hidle hp hd⟩,
    fun s p path h hp => step_hold h hp, fun s i h => step_call h, fun s hidle hp => step_noLine hidle hp,
    fun s l rest hidle hp hl => step_outside hidle hp hl, fun s nbits w i hd => step_decoded rfl rfl hd⟩

/-! ### The interrupt at a step boundary -/

section
variable {s : State} {i : Sdmmc}

theorem irqReady_iff : irqReady s i = true ↔
    (s.periph i).sta &&& (s.periph i).mask ≠ 0 ∧ (s.periph i).routed = true ∧ s.irqStep = .idle := by
  simp [irqReady, interruptPending, and_assoc]

theorem takeIrq_ready (h : irqReady s i = true) (handler : Act Unit) : takeIrq handler i s = runHandler handler i s := by
  rw [takeIrq, run_getState_bind, if_pos h]

theorem takeIrq_notReady (h : irqReady s i = false) (handler : Act Unit) : takeIrq handler i s = .ok () s := by
  rw [takeIrq, run_getState_bind, h]
  rfl

theorem runHandler_unbound (h : s.session.bound ≠ some i) (handler : Act Unit) :
    runHandler handler i s = .error (.refused .badCall) s := by
  rw [runHandler, run_getState_bind, if_neg h]
  rfl

/-- A slot that holds only an entry of `IRQ` is that entry. -/
theorem runMoves_irq (onIrq : Sdmmc → Act Unit) (i : Sdmmc) : runMoves onIrq [.irq i] = onIrq i := by
  show (onIrq i >>= fun _ => pure ()) = onIrq i
  exact bind_pure (onIrq i)

theorem hostStep_irq {pt : Point} {rest : List (List Move)} (hs : s.sched = [.irq i] :: rest) :
    hostFrame.step pt s = takeIrq irqHandler i ((s.setSched rest).moved .host [pt]) := by
  show between (takeIrq irqHandler) (s.moved .host [pt]) = _
  simp only [between, State.moved_sched, hs, runMoves_irq, State.moved_setSched]

end

/-- Settles O7: the one entry of the slot is taken, refused or passed over. -/
theorem interruptTakenAtAStepBoundary : Obligations.InterruptTakenAtAStepBoundary := by
  unfold Obligations.InterruptTakenAtAStepBoundary
  intro s i pt rest hs
  have hready : irqReady ((s.setSched rest).moved .host [pt]) i = irqReady s i := by
    rw [Bool.eq_iff_iff, irqReady_iff, irqReady_iff]
    simp
  refine ⟨fun hp hr hi hb => ?_, fun h => ?_, fun hp hr hi hb => ?_⟩
  · rw [hostStep_irq hs, takeIrq_ready (hready.trans (irqReady_iff.2 ⟨hp, hr, hi⟩)), runHandler_bound (by simpa using hb)]
    rfl
  · have hn : irqReady s i = false := by
      rw [Bool.eq_false_iff, Ne, irqReady_iff]
      rintro ⟨hp, hr, hi⟩
      rcases h with h | h | h
      · exact hp h
      · exact Bool.noConfusion (h.symm.trans hr)
      · exact h hi
    rw [hostStep_irq hs, takeIrq_notReady (hready.trans hn)]
  · rw [hostStep_irq hs, takeIrq_ready (hready.trans (irqReady_iff.2 ⟨hp, hr, hi⟩)), runHandler_unbound (by simpa using hb)]

end Sys2Proof.Machine

/-! SUPPORT. What one move of `ENV` does to a controller (10 R59, R61, R67), as the cases of one relation. -/

namespace Sys2Proof.Machine

/-! ### The cases -/

/-- What one move of `ENV` may make of a controller, with what allows it; the flags of a command that it sets are among `F`. -/
inductive Periph.MoveStep (F : Word → Prop) (p : Periph) : Periph → Prop
  | same : MoveStep F p p
  | cmdFlags (flags : Word) (h : p.commandActive = true) (hF : F flags) : MoveStep F p (p.setCommandFlags flags)
  | respond (r : RespReg) (v : Word) (h : p.commandActive = true) : MoveStep F p (p.setResp r v)
  | cmdEnd : MoveStep F p { p with cmdr := p.cmdr &&& ~~~cpsmen }
  | dataFlags (flags : Word) (h : p.dataActive = true) : MoveStep F p { p with sta := p.sta ||| (flags &&& p.dataFlagsAllowed) }
  | dataPhaseEnd : MoveStep F p { p with dctrl := p.dctrl &&& ~~~(1 : Word), dataSent := false }
  | dtenClear : MoveStep F p { p with dctrl := p.dctrl &&& ~~~(1 : Word) }
  | fifoPush (w : Word) : MoveStep F p { p with fifo := p.fifo ++ [w] }.syncRx
  | fifoSend : MoveStep F p { p with txFifo := p.txFifo.tail }
  | dataRestart (h : p.restartOpen = true) : MoveStep F p { p with dmaCount := 0, restartOpen := false }
  | dma (n : Nat) (h : p.idmaen = true) : MoveStep F p { p with dmaCount := n }
  | idmaError (h : p.idmaen = true) : MoveStep F p { p with sta := p.sta ||| idmate }
  | dynFlags (flags : Word) : MoveStep F p { p with sta := (p.sta &&& ~~~dynamicFlags) ||| (flags &&& dynamicFlags) }.keepRx
  | staleWidbus (stale : Bool) : MoveStep F p { p with widStale := stale }
  | reservedBits (r : Reg) (v : Word) : MoveStep F p (p.setReserved r v)

/-- What one move of `ENV` may make of a controller, whatever flags it sets. -/
abbrev Periph.EnvStep (p q : Periph) : Prop := p.MoveStep (fun _ => True) q

section
variable {F : Word → Prop}

/-- The step of the controller that a move names; the other one stays. -/
theorem moveStep_setPeriph {s t : State} (ht : ∀ j, t.periph j = s.periph j) {i : Sdmmc} {p : Periph} (j : Sdmmc)
    (h : j = i → (s.periph i).MoveStep F p) :
    (s.periph j).MoveStep F ((t.setPeriph i p).periph j) := by
  by_cases hj : j = i
  · subst hj
    simpa using h rfl
  · rw [State.periph_setPeriph_ne _ p hj, ht]
    exact .same

theorem moveStep_ite {s t : State} {c : Bool} {j : Sdmmc} (h : c = true → (s.periph j).MoveStep F (t.periph j)) :
    (s.periph j).MoveStep F ((if c then t else s).periph j) := by
  cases c with
  | true => exact h rfl
  | false => exact .same

/-- Of the controllers, only where the IDMA of controller `i` stands has changed. -/
def DmaMoved (i : Sdmmc) (s t : State) : Prop := ∃ n, ∀ j, t.periph j = if j = i then { s.periph i with dmaCount := n } else s.periph j

theorem DmaMoved.refl (i : Sdmmc) (s : State) : DmaMoved i s s := ⟨(s.periph i).dmaCount, fun j => by split <;> simp_all⟩

theorem DmaMoved.trans {i : Sdmmc} {s t u : State} (h1 : DmaMoved i s t) (h2 : DmaMoved i t u) : DmaMoved i s u := by
  obtain ⟨m, hm⟩ := h1
  obtain ⟨n, hn⟩ := h2
  refine ⟨n, fun j => ?_⟩
  rw [hn, hm i, hm j, if_pos rfl]
  split <;> rfl

theorem dmaMoved_setPeriph {s t : State} (h : ∀ j, t.periph j = s.periph j) (i : Sdmmc) (n : Nat) :
    DmaMoved i s (t.setPeriph i { s.periph i with dmaCount := n }) := by
  refine ⟨n, fun j => ?_⟩
  split
  next hj => rw [hj, State.periph_setPeriph]
  next hj => rw [State.periph_setPeriph_ne _ _ hj, h]

theorem dmaStore_moved (i : Sdmmc) (bytes : List Byte) (s : State) : DmaMoved i s (dmaStore i bytes s) := by
  induction bytes generalizing s with
  | nil => exact .refl i s
  | cons b rest ih =>
    simp only [dmaStore]
    split
    · exact (dmaMoved_setPeriph (fun j => State.setMem_periph ..) i _).trans (ih _)
    · exact .refl i s

theorem byteForCard_periph (s : State) (a : Nat) (j : Sdmmc) : (byteForCard s a).2.periph j = s.periph j := by
  rw [byteForCard]
  split
  · exact State.setDraws_periph ..
  · rfl

theorem State.periph_sentWith (s : State) (x : List SentByte) (j : Sdmmc) : { s with sent := x }.periph j = s.periph j := by
  cases j <;> rfl

theorem dmaSend_moved (i : Sdmmc) (n : Nat) (s : State) : DmaMoved i s (dmaSend i n s) := by
  induction n generalizing s with
  | zero => exact .refl i s
  | succ n ih =>
    simp only [dmaSend]
    split
    · exact (dmaMoved_setPeriph (fun j => (State.periph_sentWith ..).trans (byteForCard_periph ..)) i _).trans (ih _)
    · exact .refl i s

theorem DmaMoved.moveStep {i : Sdmmc} {s t : State} (h : DmaMoved i s t) (hen : (s.periph i).idmaen = true) (j : Sdmmc) :
    (s.periph j).MoveStep F (t.periph j) := by
  obtain ⟨n, hn⟩ := h
  rw [hn]
  split
  next hj =>
    subst hj
    exact .dma n hen
  next => exact .same

/-- Every move is a step of each controller. -/
theorem moveStep_applyEnv (m : Move) (s : State) (j : Sdmmc) (hF : ∀ flags, m = .cmdFlags j flags → F flags) :
    (s.periph j).MoveStep F ((applyEnv m s).periph j) := by
  cases m with
  | cmdFlags i flags => exact moveStep_ite (fun h => moveStep_setPeriph (fun _ => rfl) j (fun hj => .cmdFlags flags h (hF flags (by rw [hj]))))
  | respond i r v => exact moveStep_ite (fun h => moveStep_setPeriph (fun _ => rfl) j (fun _ => .respond r v (Bool.and_eq_true_iff.1 h).1))
  | cmdEnd i => exact moveStep_setPeriph (fun _ => rfl) j (fun _ => .cmdEnd)
  | dataFlags i flags => exact moveStep_ite (fun h => moveStep_setPeriph (fun _ => rfl) j (fun _ => .dataFlags flags h))
  | dataPhaseEnd i => exact moveStep_setPeriph (fun _ => rfl) j (fun _ => .dataPhaseEnd)
  | dtenClear i => exact moveStep_setPeriph (fun _ => rfl) j (fun _ => .dtenClear)
  | fifoPush i w => exact moveStep_ite (fun _ => moveStep_setPeriph (fun _ => rfl) j (fun _ => .fifoPush w))
  | fifoSend i => exact moveStep_ite (fun _ => moveStep_setPeriph (State.periph_sentWith s _) j (fun _ => .fifoSend))
  | dataRestart i => exact moveStep_ite (fun h => moveStep_setPeriph (fun _ => rfl) j (fun _ => .dataRestart (Bool.and_eq_true_iff.1 h).2))
  | dmaStore i bytes => exact moveStep_ite (fun h => (dmaStore_moved i bytes s).moveStep (Bool.and_eq_true_iff.1 h).2 j)
  | dmaSend i n => exact moveStep_ite (fun h => (dmaSend_moved i n s).moveStep (Bool.and_eq_true_iff.1 h).2 j)
  | idmaError i => exact moveStep_ite (fun h => moveStep_setPeriph (fun _ => rfl) j (fun _ => .idmaError h))
  | dynFlags i flags => exact moveStep_setPeriph (fun _ => rfl) j (fun _ => .dynFlags flags)
  | staleWidbus i stale => exact moveStep_setPeriph (fun _ => rfl) j (fun _ => .staleWidbus stale)
  | reservedBits i r v => exact moveStep_setPeriph (fun _ => rfl) j (fun _ => .reservedBits r v)
  | pin level | delayRuns running | irq i => cases j <;> exact .same

end

theorem envStep_applyEnv (m : Move) (s : State) (j : Sdmmc) : (s.periph j).EnvStep ((applyEnv m s).periph j) :=
  moveStep_applyEnv m s j (fun _ _ => trivial)

/-! ### The flags that `ENV` sets (10 R59, R67, 20 R95) -/

/-- A bit of one of two masks without a common bit is no bit of the other. -/
theorem getLsbD_of_disjoint {a b : Word} (h : a &&& b = 0) {n : Nat} (ha : a.getLsbD n = true) : b.getLsbD n = false :=
  Bool.eq_false_iff.2 (fun hb => and_ne_zero_of_getLsbD ha hb h)

/-- A bit of a word whose flags of a mask are cleared. -/
theorem getLsbD_and_not (a b : Word) (n : Nat) : (a &&& ~~~b).getLsbD n = (a.getLsbD n && !b.getLsbD n) := by
  rw [BitVec.getLsbD_and, BitVec.getLsbD_not]
  by_cases h : n < 32
  · rw [decide_eq_true h, Bool.true_and]
  · rw [a.getLsbD_of_ge n (by omega), Bool.false_and, Bool.false_and]

/-- The causes of a static flag that `ENV` sets: a started command, a data phase, the enabled IDMA. -/
def Periph.Causes (p : Periph) (n : Nat) : Prop :=
  (p.cmdr.getLsbD 12 = true ∧ (if p.cmdr.extractLsb' 8 2 = 0 then n = 7 else n = 0 ∨ n = 2 ∨ n = 6 ∨ n = 21)) ∨
    ((p.dctrl.getLsbD 0 = true ∨ p.dataSent = true) ∧ (0x18000F3A : Word).getLsbD n = true) ∨ (p.idmactrl.getLsbD 0 = true ∧ n = 27)

/-- A static flag of `q` is one of `p`, or has its cause in `p`. -/
def StaticSet (p : Periph) (n : Nat) (q : Periph) : Prop :=
  (p.sta.getLsbD n = true → q.sta.getLsbD n = true) ∧ (p.sta.getLsbD n = false → q.sta.getLsbD n = true → p.Causes n)

section
variable {p q : Periph} {n : Nat}

theorem staticSet_of_eq (h : q.sta.getLsbD n = p.sta.getLsbD n) : StaticSet p n q :=
  ⟨fun hp => h.trans hp, fun hp hq => absurd (hp.symm.trans (h.symm.trans hq)) Bool.false_ne_true⟩

/-- Flags set through a mask whose bits all have their cause. -/
theorem staticSet_of_or {flags mask : Word} (hq : q.sta = p.sta ||| (flags &&& mask)) (h : mask.getLsbD n = true → p.Causes n) : StaticSet p n q := by
  refine ⟨fun hp => by simp [hq, hp], fun hp hn => h ?_⟩
  rw [hq, BitVec.getLsbD_or, BitVec.getLsbD_and, hp, Bool.false_or, Bool.and_eq_true] at hn
  exact hn.2

theorem syncRx_static (hn : staticFlags.getLsbD n = true) : p.syncRx.sta.getLsbD n = p.sta.getLsbD n := by
  have hrx : rxfifoe.getLsbD n = false := getLsbD_of_disjoint (by decide) hn
  rw [Periph.syncRx]
  split
  · simp [hrx]
  · simp only [getLsbD_and_not, hrx, Bool.not_false, Bool.and_true]

theorem keepRx_static (hn : staticFlags.getLsbD n = true) : p.keepRx.sta.getLsbD n = p.sta.getLsbD n := by
  rw [Periph.keepRx]
  split
  · exact syncRx_static hn
  · rfl

theorem commandFlags_cause (h : p.commandActive = true) (hn : p.commandFlags.getLsbD n = true) : p.Causes n := by
  refine .inl ⟨by rwa [Periph.commandActive, cpsmen_eq, hasFlag_bit _ (by decide)] at h, ?_⟩
  have h32 : n < 32 := BitVec.lt_of_getLsbD hn
  unfold Periph.commandFlags noResponse at hn
  split
  next hz =>
    simp only [hz, decide_true, if_true, cmdsent] at hn
    revert hn
    exact (by decide : ∀ n < 32, (0x00000080 : Word).getLsbD n = true → n = 7) n h32
  next hz =>
    simp only [hz, decide_false, Bool.false_eq_true, if_false, respWait] at hn
    revert hn
    exact (by decide : ∀ n < 32, (0x00200045 : Word).getLsbD n = true → n = 0 ∨ n = 2 ∨ n = 6 ∨ n = 21) n h32

theorem dataFlags_cause (h : p.dataActive = true) (hn : p.dataFlagsAllowed.getLsbD n = true) : p.Causes n := by
  refine .inr (.inl ⟨by simpa [Periph.dataActive, Periph.dten] using h, ?_⟩)
  unfold Periph.dataFlagsAllowed at hn
  split at hn
  · rw [BitVec.getLsbD_and, Bool.and_eq_true] at hn
    exact hn.1
  · exact hn

theorem idmate_cause (h : p.idmaen = true) (hn : idmate.getLsbD n = true) : p.Causes n := by
  have h32 : n < 32 := BitVec.lt_of_getLsbD hn
  exact .inr (.inr ⟨h, (by decide : ∀ n < 32, idmate.getLsbD n = true → n = 27) n h32 hn⟩)

theorem Periph.EnvStep.staticSet (h : p.EnvStep q) (hn : staticFlags.getLsbD n = true) : StaticSet p n q := by
  cases h with
  | cmdFlags flags h => exact staticSet_of_or rfl (commandFlags_cause h)
  | dataFlags flags h => exact staticSet_of_or rfl (dataFlags_cause h)
  | idmaError h => exact staticSet_of_or (flags := idmate) (mask := idmate) (by simp) (idmate_cause h)
  | fifoPush w => exact staticSet_of_eq (syncRx_static hn)
  | dynFlags flags =>
    have hd : dynamicFlags.getLsbD n = false := getLsbD_of_disjoint (by decide) hn
    refine staticSet_of_eq ((keepRx_static hn).trans ?_)
    show ((p.sta &&& ~~~dynamicFlags) ||| (flags &&& dynamicFlags)).getLsbD n = _
    rw [BitVec.getLsbD_or, getLsbD_and_not, BitVec.getLsbD_and, hd]
    simp
  | respond r v => exact staticSet_of_eq (by cases r <;> rfl)
  | reservedBits r v => exact staticSet_of_eq (by cases r <;> rfl)
  | _ => exact staticSet_of_eq rfl

end

/-- Settles O10: a move is a step of each controller, and each step that sets a static flag has its cause. -/
theorem envSetsOnlyCausedFlags : Obligations.EnvSetsOnlyCausedFlags := by
  unfold Obligations.EnvSetsOnlyCausedFlags
  exact fun m s => ⟨fun i n hn => (envStep_applyEnv m s i).staticSet hn, applyEnv_session m s, applyEnv_xfer m s, applyEnv_hostStep m s,
    applyEnv_irqStep m s, applyEnv_cfg m s⟩

end Sys2Proof.Machine

/-! SUPPORT. The machine invariant (Safety.lean): what keeps a controller sound, and the whole state, at every access, move and write. -/

namespace Sys2Proof.Machine

/-! ### Words that agree on a mask -/

section
variable {m k : Word}

theorem or_and_disjoint (h : m &&& k = 0) (x y : Word) : (x ||| (y &&& m)) &&& k = x &&& k := by
  apply BitVec.eq_of_getLsbD_eq
  intro n _
  by_cases hk : k.getLsbD n = true
  · have hm : m.getLsbD n = false := getLsbD_of_disjoint ((BitVec.and_comm ..).trans h) hk
    simp only [BitVec.getLsbD_and, BitVec.getLsbD_or, hm, Bool.and_false, Bool.or_false]
  · simp only [BitVec.getLsbD_and, Bool.eq_false_iff.2 hk, Bool.and_false]

theorem and_not_disjoint (h : m &&& k = 0) (x : Word) : (x &&& ~~~m) &&& k = x &&& k := by
  apply BitVec.eq_of_getLsbD_eq
  intro n _
  by_cases hk : k.getLsbD n = true
  · have hm : m.getLsbD n = false := getLsbD_of_disjoint ((BitVec.and_comm ..).trans h) hk
    rw [BitVec.getLsbD_and, getLsbD_and_not, hm, Bool.not_false, Bool.and_true, ← BitVec.getLsbD_and]
  · simp only [BitVec.getLsbD_and, Bool.eq_false_iff.2 hk, Bool.and_false]

/-- The bits of a mask replaced leave the others. -/
theorem replace_disjoint (h : m &&& k = 0) (x y : Word) : ((x &&& ~~~m) ||| (y &&& m)) &&& k = x &&& k := by
  rw [or_and_disjoint h, and_not_disjoint h]

theorem getLsbD_of_and_eq {x y : Word} (h : x &&& k = y &&& k) {n : Nat} (hk : k.getLsbD n = true) : x.getLsbD n = y.getLsbD n := by
  have := congrArg (fun w : Word => w.getLsbD n) h
  simpa only [BitVec.getLsbD_and, hk, Bool.and_true] using this

theorem and_eq_of_and_eq {x y : Word} (h : x &&& k = y &&& k) (hm : m &&& k = m) : x &&& m = y &&& m := by
  rw [← hm, BitVec.and_comm m k, ← BitVec.and_assoc, ← BitVec.and_assoc, h]

end

/-! ### One controller -/

/-- What `Periph.sound` says beside `RXFIFOE`. -/
structure Periph.SoundWords (p : Periph) : Prop where
  sta : p.sta &&& 0xE0000000 = 0
  mask : wordAllowed .mask p.mask = true
  dctrl : wordAllowed .dctrl p.dctrl = true
  clkcr : wordAllowed .clkcr p.clkcr = true
  widPrev : p.widPrev.getLsbD 1 = false

theorem Periph.sound_iff (p : Periph) : p.sound = true ↔
    p.SoundWords ∧ (p.polledRead = true → hasFlag p.sta rxfifoe = p.fifo.isEmpty) := by
  simp only [Periph.sound, Bool.and_eq_true, decide_eq_true_eq, Bool.or_eq_true, Bool.not_eq_true']
  constructor
  · rintro ⟨⟨⟨⟨⟨h1, h2⟩, h3⟩, h4⟩, h5⟩, h6⟩
    exact ⟨⟨h1, h3, h4, h5, h6⟩, fun hp => h2.resolve_left (by simp [hp])⟩
  · rintro ⟨⟨h1, h3, h4, h5, h6⟩, h2⟩
    refine ⟨⟨⟨⟨⟨h1, ?_⟩, h3⟩, h4⟩, h5⟩, h6⟩
    cases hp : p.polledRead with
    | false => exact .inl rfl
    | true => exact .inr (h2 hp)

section
variable {p q : Periph}

theorem Periph.soundWords (h : p.sound = true) : p.SoundWords := (p.sound_iff.1 h).1

/-- `q` shows what `Periph.sound` looks at as `p` does. -/
structure Periph.SameChecks (p q : Periph) : Prop where
  sta : q.sta &&& 0xE0080000 = p.sta &&& 0xE0080000
  fifo : q.fifo = p.fifo
  mask : q.mask = p.mask
  dctrl : q.dctrl &&& 0xF = p.dctrl &&& 0xF
  idmaen : q.idmaen = p.idmaen
  clkcr : q.clkcr.getLsbD 15 = p.clkcr.getLsbD 15
  widPrev : q.widPrev = p.widPrev

theorem Periph.SameChecks.refl (p : Periph) : p.SameChecks p := ⟨rfl, rfl, rfl, rfl, rfl, rfl, rfl⟩

theorem Periph.SameChecks.polledRead (h : p.SameChecks q) : q.polledRead = p.polledRead := by
  rw [Periph.polledRead, Periph.polledRead, h.idmaen, Periph.dten, Periph.dten, toController, toController,
    getLsbD_of_and_eq h.dctrl (by decide : (0xF : Word).getLsbD 0 = true), getLsbD_of_and_eq h.dctrl (by decide : (0xF : Word).getLsbD 1 = true)]

theorem Periph.SameChecks.soundWords (h : p.SameChecks q) (hp : p.SoundWords) : q.SoundWords where
  sta := (and_eq_of_and_eq h.sta (by decide)).trans hp.sta
  mask := h.mask ▸ hp.mask
  dctrl := by simpa only [wordAllowed, and_eq_of_and_eq h.dctrl (by decide : (0xC : Word) &&& 0xF = 0xC)] using hp.dctrl
  clkcr := by simpa only [wordAllowed, h.clkcr] using hp.clkcr
  widPrev := h.widPrev ▸ hp.widPrev

theorem Periph.SameChecks.sound (h : p.SameChecks q) (hp : p.sound = true) : q.sound = true := by
  obtain ⟨hw, hrx⟩ := p.sound_iff.1 hp
  refine q.sound_iff.2 ⟨h.soundWords hw, fun hq => ?_⟩
  have hsta : q.sta &&& rxfifoe = p.sta &&& rxfifoe := and_eq_of_and_eq h.sta (by decide)
  rw [hasFlag, hsta, h.fifo]
  exact hrx (h.polledRead ▸ hq)

@[simp] theorem Periph.syncRx_polledRead (p : Periph) : p.syncRx.polledRead = p.polledRead := rfl

theorem Periph.SoundWords.syncRx (h : p.SoundWords) : p.syncRx.SoundWords := by
  refine ⟨?_, h.mask, h.dctrl, h.clkcr, h.widPrev⟩
  rw [Periph.syncRx]
  split
  · exact (or_and_disjoint (m := rxfifoe) (y := rxfifoe) (by decide) _).trans h.sta
  · exact (and_not_disjoint (by decide) _).trans h.sta

theorem Periph.syncRx_rxfifoe (p : Periph) : hasFlag p.syncRx.sta rxfifoe = p.syncRx.fifo.isEmpty := by
  show hasFlag (if p.fifo.isEmpty then p.sta ||| rxfifoe else p.sta &&& ~~~rxfifoe) rxfifoe = p.fifo.isEmpty
  rw [show rxfifoe = BitVec.twoPow 32 19 from by decide, hasFlag_bit _ (by decide)]
  cases p.fifo.isEmpty <;> simp

theorem Periph.SoundWords.sound_syncRx (h : p.SoundWords) : p.syncRx.sound = true :=
  p.syncRx.sound_iff.2 ⟨h.syncRx, fun _ => p.syncRx_rxfifoe⟩

theorem Periph.SoundWords.sound_keepRx (h : p.SoundWords) : p.keepRx.sound = true := by
  rw [Periph.keepRx]
  split
  next => exact h.sound_syncRx
  next hp => exact p.sound_iff.2 ⟨h, fun hp' => absurd hp' hp⟩

/-- A controller whose data path is off has no polled read. -/
theorem Periph.SoundWords.sound_of_off (h : p.SoundWords) (hd : p.dten = false) : p.sound = true :=
  p.sound_iff.2 ⟨h, fun hp => by simp [Periph.polledRead, hd] at hp⟩

/-! ### Accesses and moves keep a controller sound -/

theorem Periph.sound_afterRead (h : p.sound = true) (r : Reg) : (p.afterRead r).sound = true := by
  cases r with
  | fifo => exact (Periph.SoundWords.mk (p := { p with fifo := p.fifo.tail }) (p.soundWords h).sta (p.soundWords h).mask (p.soundWords h).dctrl
      (p.soundWords h).clkcr (p.soundWords h).widPrev).sound_syncRx
  | _ => exact h

theorem widbus_bit (c : Word) : (widbus c).getLsbD 1 = c.getLsbD 15 := by simp [widbus]

theorem Periph.sound_write (h : p.sound = true) (r : Reg) {v : Word} (hv : wordAllowed r v = true) : (p.write r v).sound = true := by
  have hw := p.soundWords h
  cases r with
  | clkcr =>
    refine Periph.sound_iff _ |>.2 ⟨⟨hw.sta, hw.mask, hw.dctrl, hv, ?_⟩, (p.sound_iff.1 h).2⟩
    show (if widbus v = widbus p.clkcr then p.widPrev else widbus p.clkcr).getLsbD 1 = false
    split
    · exact hw.widPrev
    · exact (widbus_bit _).trans (of_decide_eq_true hw.clkcr)
  | mask => exact Periph.sound_iff _ |>.2 ⟨⟨hw.sta, hv, hw.dctrl, hw.clkcr, hw.widPrev⟩, (p.sound_iff.1 h).2⟩
  | dctrl =>
    have hq : ∀ n, Periph.SoundWords { p with dctrl := v, dmaCount := n } := fun n => ⟨hw.sta, hw.mask, hv, hw.clkcr, hw.widPrev⟩
    show (if v.getLsbD 0 then _ else _ : Periph).sound = true
    split
    next => exact (hq 0).sound_syncRx
    next hd => exact (hq p.dmaCount).sound_of_off (by simpa [Periph.dten] using hd)
  | idmactrl => exact Periph.SoundWords.sound_keepRx ⟨hw.sta, hw.mask, hw.dctrl, hw.clkcr, hw.widPrev⟩
  | icr =>
    have hm : staticFlags &&& (0xE0080000 : Word) = 0 := by decide
    refine Periph.SameChecks.sound ⟨and_not_disjoint (m := v &&& staticFlags) ?_ _, rfl, rfl, rfl, rfl, rfl, rfl⟩ h
    rw [BitVec.and_assoc, hm]
    exact BitVec.and_zero
  | _ => exact (Periph.SameChecks.refl p).sound h

theorem Periph.sameChecks_setReserved (p : Periph) (r : Reg) (v : Word) : p.SameChecks (p.setReserved r v) := by
  cases r with
  | clkcr => exact ⟨rfl, rfl, rfl, rfl, rfl, getLsbD_of_and_eq (k := 0x8000) (replace_disjoint (by decide) _ _) (by decide), rfl⟩
  | dctrl => exact ⟨rfl, rfl, rfl, replace_disjoint (by decide) _ _, rfl, rfl, rfl⟩
  | idmactrl => exact ⟨rfl, rfl, rfl, rfl, getLsbD_of_and_eq (k := 1) (replace_disjoint (by decide) _ _) (by decide), rfl, rfl⟩
  | _ => exact ⟨rfl, rfl, rfl, rfl, rfl, rfl, rfl⟩

theorem Periph.commandFlags_disjoint (p : Periph) : p.commandFlags &&& 0xE0080000 = 0 := by
  unfold Periph.commandFlags
  split <;> decide

theorem Periph.dataFlagsAllowed_disjoint (p : Periph) : p.dataFlagsAllowed &&& 0xE0080000 = 0 := by
  unfold Periph.dataFlagsAllowed
  split <;> decide

/-- `DTEN` cleared: no polled read runs, and the other bits of `DCTRL` stay. -/
theorem Periph.SoundWords.sound_dtenOff (h : p.SoundWords) (hq : q = { p with dctrl := p.dctrl &&& ~~~(1 : Word), dataSent := q.dataSent }) :
    q.sound = true := by
  have hd : q.dctrl = p.dctrl &&& ~~~(1 : Word) := congrArg Periph.dctrl hq
  have hoff : q.dten = false := by
    rw [Periph.dten, hd, getLsbD_and_not]
    simp
  rw [hq]
  refine Periph.SoundWords.sound_of_off ⟨h.sta, h.mask, ?_, h.clkcr, h.widPrev⟩ (hd ▸ hoff)
  show decide ((p.dctrl &&& ~~~(1 : Word)) &&& 0xC = 0) = true
  rw [and_not_disjoint (by decide)]
  exact h.dctrl

theorem Periph.EnvStep.sound (h : p.EnvStep q) (hp : p.sound = true) : q.sound = true := by
  have hw := p.soundWords hp
  cases h with
  | cmdFlags flags _ => exact Periph.SameChecks.sound ⟨or_and_disjoint p.commandFlags_disjoint _ _, rfl, rfl, rfl, rfl, rfl, rfl⟩ hp
  | dataFlags flags _ => exact Periph.SameChecks.sound ⟨or_and_disjoint p.dataFlagsAllowed_disjoint _ _, rfl, rfl, rfl, rfl, rfl, rfl⟩ hp
  | idmaError _ => exact Periph.SameChecks.sound ⟨or_and_disjoint (m := idmate) (y := idmate) (by decide) _, rfl, rfl, rfl, rfl, rfl, rfl⟩ hp
  | respond r v _ => cases r <;> exact (Periph.SameChecks.refl p).sound hp
  | dataPhaseEnd => exact hw.sound_dtenOff rfl
  | dtenClear => exact hw.sound_dtenOff rfl
  | fifoPush w => exact Periph.SoundWords.sound_syncRx ⟨hw.sta, hw.mask, hw.dctrl, hw.clkcr, hw.widPrev⟩
  | dynFlags flags =>
    exact Periph.SoundWords.sound_keepRx ⟨(replace_disjoint (by decide) _ _).trans hw.sta, hw.mask, hw.dctrl, hw.clkcr, hw.widPrev⟩
  | reservedBits r v => exact (p.sameChecks_setReserved r v).sound hp
  | _ => exact (Periph.SameChecks.refl p).sound hp

/-- A word that a sound controller shows is one the block may write back. -/
theorem Periph.value_allowed (h : p.sound = true) (r : Reg) : wordAllowed r (p.value r) = true := by
  have hw := p.soundWords h
  cases r with
  | mask => exact hw.mask
  | dctrl => exact hw.dctrl
  | clkcr =>
    show wordAllowed .clkcr (if p.widStale then withWidbus p.clkcr p.widPrev else p.clkcr) = true
    split
    · have : (withWidbus p.clkcr p.widPrev).getLsbD 15 = p.widPrev.getLsbD 1 := by simp [withWidbus]
      exact decide_eq_true (this.trans hw.widPrev)
    · exact hw.clkcr
  | _ => rfl

end

end Sys2Proof.Machine

/-! SUPPORT. Calls and waits of `HOST` as one operation each, and the proof that every step keeps the machine invariant. -/

namespace Sys2Proof.Machine

/-! ### Calls and waits as operations -/

/-- The instruction is a call of `HOST` whose operation keeps `I`. -/
def CallKeeps (I : State → Prop) (x : Instr) : Prop :=
  ∃ (α : Type) (r : α → Result) (op : Act α), (∀ s, exec x s = finish x r op s) ∧ Spec (Partial I) I op (fun _ => I)

/-- The place is one whose operation goes on and keeps `I`. -/
def PlaceKeeps (I : State → Prop) (p : Place) : Prop :=
  ∃ (α : Type) (r : α → Result) (op : Act α), (∀ s, resume p s = conclude r op s) ∧ Spec (Partial I) I op (fun _ => I)

section
variable {I : State → Prop} {W : Reg → Word → Prop}

/-- Every instruction but the interrupt entries is a call, and keeps what its writes keep. -/
theorem callKeeps_of_writes (h : MachineKeeps I W) {x : Instr} (hw : Writes I x) (hx : ∀ i, x ≠ irqEntry i) : CallKeeps I x := by
  have const : ∀ a : Word, Spec (Partial I) I (pure a : Act Word) (fun _ => I) := fun a => Spec.pure (fun _ h => h)
  have address : ∀ n, Spec (Partial I) I (readDataAddress n) (fun _ => I) := fun n =>
    (cardType_keeps h.host).seq (fun _ => Spec.pure (fun _ h => h))
  have checked : ∀ {α : Type} {c : Bool} {r : Refusal} {m : Act α}, Spec (Partial I) I m (fun _ => I) →
      Spec (Partial I) I (refuseIf c r >>= fun _ => m) (fun _ => I) := fun hm =>
    Spec.seq (Spec.refuseIf (fun _ _ _ => trivial) (fun _ _ hs => hs)) (fun _ => hm)
  have refused : ∀ s, I s → ∀ {P : Prop}, P → Partial I (.refused .badResponseType) s := fun _ _ _ _ => trivial
  cases x with
  | cmd0 | cmd2 | cmd8 | cmd12 | cmd16 n | acmd6 w | acmd13 | acmd51 =>
    exact ⟨_, _, _, fun _ => rfl, commandOnly_keeps h (const _) _ (by decide)⟩
  | cmd7 | cmd9 | cmd13 => exact ⟨_, _, _, fun _ => rfl, commandOnly_keeps h (rcaArg_keeps h.host) _ (by decide)⟩
  | cmd17 n | cmd18 n | cmd24 n | cmd25 n => exact ⟨_, _, _, fun _ => rfl, commandOnly_keeps h (address n) _ (by decide)⟩
  | cmd55 a =>
    cases a with
    | none => exact ⟨_, _, _, fun _ => rfl, commandOnly_keeps h (const 0) 55 (by decide)⟩
    | rcaArg => exact ⟨_, _, _, fun _ => rfl, commandOnly_keeps h (rcaArg_keeps h.host) 55 (by decide)⟩
  | acmd41 => exact ⟨_, _, _, fun _ => rfl, commandOnly_keeps h
      ((readOr_keeps (fun _ _ _ => trivial)).seq (fun _ => Spec.pure (fun _ h => h))) 41 (by decide)⟩
  | cmd3 => exact ⟨_, _, _, fun _ => rfl, sendCommand_keeps h.host (const 0) 3 (fun _ => hw)⟩
  | transmitCommand c a rt =>
    exact ⟨_, _, _, fun _ => rfl, checked (checked (transmitCommand_keeps h.host.regs h.host.words.toCommandWords h.host.appCmd h.host.boundary c a
      hw (fun s hs => refused s hs)))⟩
  | classify c rt => exact ⟨_, _, _, fun _ => rfl, checked (classify_keeps h.host.regs h.host.boundary c hw (fun s hs => refused s hs))⟩
  | sdInitializeLL sel => exact ⟨_, _, _, fun _ => rfl, sdInitializeLL_keeps h.host.boundary partial_stops hw sel⟩
  | sdInit d => exact ⟨_, _, _, fun _ => rfl, sdInit_keeps h.host hw d⟩
  | sdReadBlocksDMA | sdWriteBlocksDMA => exact ⟨_, _, _, fun _ => rfl, xferBlocks_keeps h.host hw _ _ _ _ _⟩
  | sdCheckRead | sdCheckWrite => exact ⟨_, _, _, fun _ => rfl, checkTransfer_keeps h.host hw⟩
  | sdGetCardInfo => exact ⟨_, _, _, fun _ => rfl, sdGetCardInfo_keeps h.host.boundary partial_stops hw⟩
  | sdGetStatus => exact ⟨_, _, _, fun _ => rfl, sdGetStatus_keeps h.host⟩
  | sdGetCardStatus out =>
    exact ⟨_, _, _, fun _ => rfl, Spec.thenOk (sendSDStatus_keeps h.host hw.1 _) (storeSdStatus_keeps h.host.boundary hw.2 out)⟩
  | sdIsDetected => exact ⟨_, _, _, fun _ => rfl, sdIsDetected_keeps h.host.boundary⟩
  | sdAbort => exact ⟨_, _, _, fun _ => rfl, sdAbort_keeps h.host⟩
  | powerOn => exact ⟨_, _, _, fun _ => rfl, powerOn_keeps h.host hw rfl⟩
  | initializeCard => exact ⟨_, _, _, fun _ => rfl, initializeCard_keeps h.host hw⟩
  | decodeCSD => exact ⟨_, _, _, fun _ => rfl, decodeCSD_keeps h.host.boundary partial_stops hw⟩
  | decodeCID => exact ⟨_, _, _, fun _ => rfl, decodeCID_keeps h.host.boundary partial_stops hw⟩
  | findSCR => exact ⟨_, _, _, fun _ => rfl, findSCR_keeps h.host hw _⟩
  | wideBusOperationConfig mode => exact ⟨_, _, _, fun _ => rfl, wideBus_keeps h.host hw _ mode⟩
  | sendSDStatus => exact ⟨_, _, _, fun _ => rfl, sendSDStatus_keeps h.host hw _⟩
  | sdmmc1IRQHandler => exact absurd rfl (hx .sdmmc1)
  | sdmmc2IRQHandler => exact absurd rfl (hx .sdmmc2)
  | decodeCardStatus r => exact ⟨_, _, _, fun _ => rfl, decodeStatus_keeps h.host.boundary r⟩
  | decodeR6 r => exact ⟨_, _, _, fun _ => rfl, decodeR6_keeps h.host.boundary hw r⟩

/-- A width code of 1-bit or 4-bit is that of a width. -/
theorem widbusCode_of_legal {code : BitVec 2} (h : code.getLsbD 1 = false) : ∃ w, code = widbusCode w := by
  have cases : ∀ c : BitVec 2, c.getLsbD 1 = false → c = 0 ∨ c = 1 := by decide
  rcases cases code h with h0 | h1
  · exact ⟨.w1, h0⟩
  · exact ⟨.w4, h1⟩

theorem placeKeeps_returnWide (hb : Steps (Partial I) I .host hostFrame.between) {p : Place} (caller : WideCaller) {op : Act Err}
    (hp : ∀ s, resume p s = returnWide caller op s) (h : Spec (Partial I) I op (fun _ => I)) : PlaceKeeps I p := by
  cases caller with
  | host => exact ⟨_, _, _, hp, h⟩
  | sdInit => exact ⟨_, _, _, hp, h.seq (fun e => sdInitResult_keeps hb e)⟩

/-- Every sound wait goes on as one operation, and keeps what its writes keep. -/
theorem placeKeeps_of_writes (h : MachineKeeps I W) {p : Place} (hw : PlaceWrites I p) (hp : p.sound = true) : PlaceKeeps I p := by
  cases p with
  | call _ => cases hp
  | delay caller =>
    cases caller with
    | host => exact ⟨_, _, _, fun _ => rfl, powerOnSettled_keeps h.host hw hp⟩
    | sdInit d =>
      have hd : clockDividerInRange d = true := by simpa [Place.sound, clockDividerInRange] using hp
      exact ⟨_, _, _, fun _ => rfl, (powerOnSettled_keeps h.host hw.powerOn hp).seq (fun _ =>
        (sdInitAfterPower_keeps h.host hw hd _).seq (fun _ => sdInitResult_keeps h.host.boundary _))⟩
  | scrLoop caller words =>
    have hl : words.length ≤ 2 := by simpa [Place.sound] using hp
    cases caller with
    | host => exact ⟨_, _, _, fun _ => rfl, scrFrom_keeps h.host hw _ hl⟩
    | wideBus mode caller =>
      exact placeKeeps_returnWide h.host.boundary caller (fun _ => rfl)
        (Spec.thenOk (scrFrom_keeps h.host hw _ hl) (wideBusAfterScr_keeps h.host caller _))
  | ssrLoop caller words =>
    have hl : words.length ≤ 16 := by simpa [Place.sound] using hp
    cases caller with
    | host => exact ⟨_, _, _, fun _ => rfl, ssrFrom_keeps h.host hw _ hl⟩
    | getCardStatus out =>
      exact ⟨_, _, _, fun _ => rfl, Spec.thenOk (ssrFrom_keeps h.host hw.1 _ hl) (storeSdStatus_keeps h.host.boundary hw.2 out)⟩
  | settleLoop caller code =>
    have hc : code.getLsbD 1 = false := by simpa [Place.sound] using hp
    obtain ⟨w, rfl⟩ := widbusCode_of_legal hc
    exact placeKeeps_returnWide h.host.boundary caller (fun _ => rfl) (settle_keeps h.host hc (fun v hv => h.host.words.widbus v w hv) caller)

end

/-! ### The invariant without the position of `HOST`, and what the positions satisfy -/

/-- The core of the invariant, with what the positions of `IRQ` and `HOST` satisfy. -/
def SoundWith (K : IrqStep → HostStep → Prop) (s : State) : Prop := SoundCore s ∧ K s.irqStep s.hostStep

section
variable {s : State} {i : Sdmmc}

theorem SoundCore.periph (h : SoundCore s) (i : Sdmmc) : (s.periph i).sound = true := by
  obtain ⟨_, _, h1, h2⟩ := h
  cases i with
  | sdmmc1 => exact h1
  | sdmmc2 => exact h2

theorem SoundCore.setPeriph (h : SoundCore s) {p : Periph} (hp : p.sound = true) : SoundCore (s.setPeriph i p) := by
  obtain ⟨hm, hc, h1, h2⟩ := h
  cases i with
  | sdmmc1 => exact ⟨hm, hc, hp, h2⟩
  | sdmmc2 => exact ⟨hm, hc, h1, hp⟩

theorem wf_dmaStore (i : Sdmmc) (bytes : List Byte) {s : State} (h : Memory.wf s.mem = true) : Memory.wf (dmaStore i bytes s).mem = true := by
  induction bytes generalizing s with
  | nil => exact h
  | cons b rest ih =>
    simp only [dmaStore]
    split
    · exact ih (by simpa using Memory.wf_write _ b h)
    · exact h

theorem byteForCard_mem (s : State) (a : Nat) : (byteForCard s a).2.mem = s.mem := by
  rw [byteForCard]
  split <;> rfl

theorem dmaSend_mem (i : Sdmmc) (n : Nat) (s : State) : (dmaSend i n s).mem = s.mem := by
  induction n generalizing s with
  | zero => rfl
  | succ n ih =>
    simp only [dmaSend]
    split
    · rw [ih, State.setPeriph_mem]
      exact byteForCard_mem ..
    · rfl

/-- Only a store of the IDMA writes memory (20 R82). -/
theorem applyEnv_mem (m : Move) (s : State) : (applyEnv m s).mem = s.mem ∨ ∃ i bytes, m = .dmaStore i bytes ∧
    ((s.periph i).dataActive && toController (s.periph i).dctrl && (s.periph i).idmaen) = true ∧ (applyEnv m s).mem = (dmaStore i bytes s).mem := by
  cases m with
  | dmaStore i bytes =>
    simp only [applyEnv]
    split
    next h => exact .inr ⟨i, bytes, rfl, h, rfl⟩
    next => exact .inl rfl
  | dmaSend i n =>
    left
    simp only [applyEnv]
    split
    · exact dmaSend_mem i n s
    · rfl
  | cmdFlags | respond | dataFlags | fifoPush | fifoSend | dataRestart | idmaError =>
    left
    simp only [applyEnv]
    split
    · exact State.setPeriph_mem ..
    · rfl
  | cmdEnd | dataPhaseEnd | dtenClear | dynFlags | staleWidbus | reservedBits => exact .inl (State.setPeriph_mem ..)
  | pin | delayRuns | irq => exact .inl rfl

theorem SoundCore.applyEnv (h : SoundCore s) (m : Move) : SoundCore (applyEnv m s) := by
  obtain ⟨hm, hc, _, _⟩ := id h
  refine ⟨?_, by rwa [applyEnv_session], (envStep_applyEnv m s .sdmmc1).sound (h.periph .sdmmc1), (envStep_applyEnv m s .sdmmc2).sound (h.periph .sdmmc2)⟩
  rcases applyEnv_mem m s with h | ⟨i, bytes, _, _, h⟩
  · exact h ▸ hm
  · exact h ▸ wf_dmaStore i bytes hm

/-- A word that the block writes respects the encodings it never writes (30 R132). -/
def Allowed (r : Reg) (v : Word) : Prop := wordAllowed r v = true

theorem allowed_words : Words Allowed where
  icr _ := rfl
  argr _ := rfl
  cmdr _ := rfl
  dtimer _ := rfl
  dlen _ := rfl
  idmactrl _ := rfl
  idmabase0 _ := rfl
  dctrlZero := rfl
  dctrlDma d := by cases d <;> rfl
  dctrlScr := rfl
  dctrlSsr := rfl
  maskSet v d h := by
    refine decide_eq_true ?_
    rw [BitVec.and_comm, BitVec.and_or_distrib_left, BitVec.and_comm, of_decide_eq_true h]
    cases d <;> decide
  maskClr v h := by
    refine decide_eq_true ?_
    rw [BitVec.and_assoc, BitVec.and_comm (~~~xferIrqs), ← BitVec.and_assoc, of_decide_eq_true h]
    exact BitVec.zero_and
  powerSet _ _ _ := rfl
  clkInit d := by simp [Allowed, wordAllowed]
  clkdiv v d hd h := by
    have hbit : d.getLsbD 15 = false := Nat.testBit_lt_two_pow (Nat.lt_trans (of_decide_eq_true hd) (by decide))
    refine decide_eq_true ?_
    rw [withClkdiv, BitVec.getLsbD_or, getLsbD_and_not, hbit, of_decide_eq_true h]
    rfl
  widbus v w h := by cases w <;> simp [Allowed, wordAllowed, withWidbus, widbusCode]

end

section
variable {K : IrqStep → HostStep → Prop} {E : Stop → State → Prop}

theorem soundWith_regs (hu : ∀ s, E (.fault .unbound) s) : Regs E (SoundWith K) Allowed where
  unbound s _ _ := hu s
  read s i r h _ := ⟨h.1.setPeriph (Periph.sound_afterRead (h.1.periph i) r), by simpa using h.2⟩
  value s i r h _ := Periph.value_allowed (h.1.periph i) r
  free _ := rfl
  write s i r v h _ hv := ⟨h.1.setPeriph (Periph.sound_write (h.1.periph i) r hv), by simpa using h.2⟩
  draws _ _ h := h

theorem soundWith_handlerFree (hu : ∀ s, E (.fault .unwrittenSession) s) : HandlerFree E (SoundWith K) where
  appCmd _ _ h := h
  clear _ _ h := h
  complete _ h := h
  error _ _ h := h
  operation s _ _ := hu s

theorem soundWith_envFree : EnvFree (SoundWith K) where
  sched _ _ h := h
  env s m h := ⟨h.1.applyEnv m, by simpa using h.2⟩

/-- The session with a negotiated card type. -/
theorem SoundWith.setSession {s : State} (h : SoundWith K s) {x : Session} (hx : CardType.negotiated x.cardType = true) : SoundWith K (s.setSession x) :=
  ⟨⟨h.1.1, hx, h.1.2.2.1, h.1.2.2.2⟩, h.2⟩

theorem SoundWith.cardType {s : State} (h : SoundWith K s) : CardType.negotiated s.session.cardType = true := h.1.2.1

theorem soundWith_rcaFree : RcaFree (SoundWith K) := fun _ _ h => h.setSession h.cardType

theorem soundWith_scrFree : ScrFree (SoundWith K) := fun _ _ _ h => h.setSession h.cardType

theorem soundWith_cardInfoFree : CardInfoFree (SoundWith K) := fun _ _ h => h.setSession h.cardType

theorem soundWith_powerOnFree : PowerOnFree (SoundWith K) where
  powered _ h := h.setSession h.cardType
  first _ h := h.setSession rfl
  probed _ h := h.setSession rfl
  highCapacity _ h := h.setSession rfl
  capArg _ _ h := h.setSession h.cardType

theorem soundWith_identifyFree : IdentifyFree (SoundWith K) where
  cid _ _ _ h := h.setSession h.cardType
  csd _ _ _ h := h.setSession h.cardType
  rca := soundWith_rcaFree

theorem soundWith_initFree : InitFree (SoundWith K) := ⟨soundWith_powerOnFree, soundWith_identifyFree, soundWith_cardInfoFree, soundWith_scrFree⟩

theorem soundWith_bindFree : BindFree (SoundWith K) where
  bound _ _ h := h.setSession h.cardType
  powered _ h := h.setSession h.cardType
  setup s i h := ⟨h.1.setPeriph (by cases (s.periph i).routed <;> decide), by simpa using h.2⟩
  route s i h := ⟨h.1.setPeriph ((Periph.SameChecks.refl (s.periph i)).sound (h.1.periph i)), by simpa using h.2⟩

theorem soundWith_exhaust {s : State} (h : SoundWith K s) : SoundWith K s.exhaust := by
  unfold State.exhaust
  split
  · exact h
  next i _ => exact ⟨h.1.setPeriph ((Periph.SameChecks.refl (s.periph i)).sound (h.1.periph i)), by simpa using h.2⟩

theorem soundWith_armFree : ArmFree (SoundWith K) where
  complete _ h := h
  error _ h := h
  start _ _ h := h
  clear _ _ h := h
  operation _ _ h := h
  windows _ _ _ h := h
  tainted _ _ h := h
  stale _ _ h := h
  exhaust _ h := soundWith_exhaust h

theorem soundWith_checkFree (d : Dir) : CheckFree (SoundWith K) d := ⟨fun _ h => h, fun _ h => h⟩

theorem soundWith_ssrFree : SsrFree (SoundWith K) := fun _ _ h => h

theorem soundWith_statusFree : StatusFree (SoundWith K) := ⟨fun _ _ h => h.setSession h.cardType, fun _ _ h => h⟩

end

/-! ### Entries of `IRQ` -/

/-- No handler runs, and `HOST` stands as `L` says. -/
def Between (L : HostStep → Prop) (q : IrqStep) (h : HostStep) : Prop := q = .idle ∧ L h

section
variable {L : HostStep → Prop}

/-- The handler keeps the invariant from its entry to its return, and is idle after it. -/
theorem runHandler_sound {J : State → Prop} (i : Sdmmc) : Spec (Partial J) (SoundWith (Between L)) (runHandler irqHandler i)
    (fun _ => SoundWith (Between L)) := by
  have hbody : Spec (Partial J) (SoundWith (fun _ h => L h)) irqHandler (fun _ => SoundWith (fun _ h => L h)) :=
    irqHandler_keeps (soundWith_regs (fun _ => trivial)) allowed_words (soundWith_handlerFree (fun _ => trivial))
      (irqSteps_keep soundWith_envFree (fun _ _ h => h))
  refine Spec.getState_seq (fun s _ => Spec.ite (fun _ => ?_) (fun _ => Spec.refuse (fun _ _ => trivial)))
  refine Spec.bind (R := fun _ => SoundWith (fun _ h => L h)) (Spec.update (fun s h => ⟨h.1, h.2.2⟩)) (fun _ => hbody.bind (fun _ => ?_))
  exact Spec.update (fun s h => ⟨h.1, rfl, h.2⟩)

theorem takeIrq_sound {J : State → Prop} (i : Sdmmc) : Spec (Partial J) (SoundWith (Between L)) (takeIrq irqHandler i)
    (fun _ => SoundWith (Between L)) :=
  Spec.getState_seq (fun _ _ => Spec.ite (fun _ => runHandler_sound i) (fun _ => Spec.pure (fun _ h => h)))

theorem runMoves_sound {J : State → Prop} (moves : List Move) : Spec (Partial J) (SoundWith (Between L))
    (runMoves (takeIrq irqHandler) moves) (fun _ => SoundWith (Between L)) :=
  runMoves_keeps soundWith_envFree.env takeIrq_sound moves

theorem between_sound {J : State → Prop} : Spec (Partial J) (SoundWith (Between L)) hostFrame.between
    (fun _ => SoundWith (Between L)) :=
  between_keeps soundWith_envFree takeIrq_sound

theorem soundWith_machine : MachineKeeps (SoundWith (Between fun _ => True)) Allowed where
  host := ⟨soundWith_regs (fun _ => trivial), allowed_words, fun _ _ h => h, ⟨between_sound, fun _ _ h => h⟩, partial_stops⟩
  hostStep _ _ h := h

end

/-! ### The host program's own accesses (20 R80) -/

theorem Sound.hostLoad {s : State} (h : Sound s) (a : Word) : Sound (hostLoad a s) := by
  unfold Machine.hostLoad
  split <;> exact h

theorem Sound.hostStore {s : State} (h : Sound s) (a : Word) (v : Byte) : Sound (hostStore a v s) := by
  obtain ⟨⟨hm, hcore⟩, hpos⟩ := h
  exact ⟨⟨Memory.wf_write _ v hm, hcore⟩, hpos⟩

/-! ### One step -/

section
variable {s t : State}

theorem Sound.core {L : HostStep → Prop} (h : Sound s) (hL : L s.hostStep) : SoundWith (Between L) s := ⟨h.1, h.2.1, hL⟩

theorem sound_of_conclude {α : Type} {r : α → Result} {op : Act α}
    (h : Spec (Partial (SoundWith (Between fun _ => True))) (SoundWith (Between fun _ => True)) op (fun _ => SoundWith (Between fun _ => True)))
    (hs : SoundWith (Between fun _ => True) s) (ht : conclude r op s = .next t) : Sound t :=
  conclude_spec (h.post (fun _ _ hu => ⟨hu.1, hu.2.1, rfl⟩))
    (fun p u hp => ⟨hp.2.1, hp.2.2.1, by simp [HostStep.sound, hp.1]⟩) hs ht

theorem sound_of_outside {op : Act Unit}
    (h : Spec (Partial (SoundWith (Between fun _ => True))) (SoundWith (Between (· = .idle))) op (fun _ => SoundWith (Between (· = .idle))))
    (hs : SoundWith (Between (· = .idle)) s) (ht : finishOutside op s = .next t) : Sound t :=
  finishOutside_spec (h.post (fun _ u hu => ⟨hu.1, hu.2.1, by rw [hu.2.2]; rfl⟩))
    (fun p u hp => ⟨hp.2.1, hp.2.2.1, by simp [HostStep.sound, hp.1]⟩) hs ht

theorem soundWith_writes {x : Instr} (hx : ∀ i, x ≠ irqEntry i) : Writes (SoundWith (Between fun _ => True)) x := by
  cases x with
  | cmd3 | decodeR6 r => exact soundWith_rcaFree
  | transmitCommand | classify => exact fun _ => soundWith_rcaFree
  | sdInitializeLL => exact soundWith_bindFree
  | sdInit => exact soundWith_initFree
  | sdReadBlocksDMA | sdWriteBlocksDMA => exact soundWith_armFree
  | sdCheckRead | sdCheckWrite => exact soundWith_checkFree _
  | sdGetCardInfo | decodeCSD | decodeCID => exact soundWith_cardInfoFree
  | sdGetCardStatus => exact ⟨soundWith_ssrFree, soundWith_statusFree⟩
  | sendSDStatus => exact soundWith_ssrFree
  | powerOn => exact soundWith_powerOnFree
  | initializeCard => exact soundWith_identifyFree
  | findSCR | wideBusOperationConfig => exact soundWith_scrFree
  | sdmmc1IRQHandler => exact absurd rfl (hx .sdmmc1)
  | sdmmc2IRQHandler => exact absurd rfl (hx .sdmmc2)
  | _ => trivial

theorem soundWith_placeWrites (p : Place) : PlaceWrites (SoundWith (Between fun _ => True)) p := by
  cases p with
  | delay caller =>
    cases caller with
    | host => exact soundWith_powerOnFree
    | sdInit d => exact soundWith_initFree
  | scrLoop => exact soundWith_scrFree
  | ssrLoop caller =>
    cases caller with
    | host => exact soundWith_ssrFree
    | getCardStatus out => exact ⟨soundWith_ssrFree, soundWith_statusFree⟩
  | _ => trivial

theorem exec_keeps_sound (h : Sound s) (hidle : s.hostStep = .idle) {x : Instr} (ht : exec x s = .next t) : Sound t := by
  by_cases hx : ∃ i, x = irqEntry i
  · obtain ⟨i, rfl⟩ := hx
    rw [exec_irqEntry] at ht
    exact sound_of_outside (runHandler_sound i) (h.core hidle) ht
  · obtain ⟨α, r, op, hexec, hop⟩ := callKeeps_of_writes soundWith_machine (soundWith_writes (fun i hi => hx ⟨i, hi⟩)) (fun i hi => hx ⟨i, hi⟩)
    rw [hexec, finish_eq] at ht
    have entered : SoundWith (Between fun _ => True) (s.enter x) := ⟨h.1, h.2.1, trivial⟩
    exact sound_of_conclude hop entered ht

theorem runOutside_keeps_sound (h : Sound s) (hidle : s.hostStep = .idle) {l : Line} (ht : runOutside l s = .next t) : Sound t := by
  cases l with
  | code c => cases ht; exact h
  | env moves => exact sound_of_outside (runMoves_sound moves) (h.core hidle) ht
  | load a => cases ht; exact h.hostLoad a
  | store a v => cases ht; exact h.hostStore a v

theorem idle_keeps_sound (h : Sound s) (hidle : s.hostStep = .idle) (ht : step s = .next t) : Sound t := by
  have moved : ∀ rest, Sound { s with program := rest } := fun _ => h
  cases hp : s.program with
  | nil =>
    rw [step_noLine hidle hp] at ht
    exact sound_of_outside between_sound (h.core hidle) ht
  | cons l rest =>
    by_cases hl : ∃ c, l = .code c
    · obtain ⟨c, rfl⟩ := hl
      cases hd : decode s.appCmd c with
      | ok i =>
        rw [step_decoded hidle hp hd] at ht
        exact exec_keeps_sound (moved rest) hidle ht
      | error e =>
        rw [step_undecoded hidle hp hd] at ht
        cases ht
    · rw [step_outside hidle hp (fun c hc => hl ⟨c, hc⟩)] at ht
      exact runOutside_keeps_sound (moved rest) hidle ht

theorem hold_keeps_sound (h : Sound s) {p : Place} {path : List Point} (hin : s.hostStep = .inside p path) (ht : step s = .next t) : Sound t := by
  have hp : p.sound = true := by
    have hpos : s.hostStep.sound = true := h.2.2
    rw [hin] at hpos
    exact (Bool.and_eq_true_iff.1 hpos).1
  obtain ⟨α, r, op, hresume, hop⟩ := placeKeeps_of_writes soundWith_machine (soundWith_placeWrites p) hp
  rw [step_hold hin (fun i hi => by rw [hi] at hp; cases hp), hresume] at ht
  exact sound_of_conclude hop (h.core trivial) ht

end

/-- Settles O13: every part of the invariant is closed at reset. -/
theorem soundAtReset : Obligations.SoundAtReset := by
  unfold Obligations.SoundAtReset
  exact ⟨⟨rfl, rfl, by decide, by decide⟩, rfl, rfl⟩

/-- Settles O14: the operations keep the core of the invariant with no handler running between their steps, and a call ends idle or at a sound hold. -/
theorem stepKeepsSound : Obligations.StepKeepsSound := by
  unfold Obligations.StepKeepsSound
  intro s t h ht
  cases hs : s.hostStep with
  | idle => exact idle_keeps_sound h hs ht
  | inside p path => exact hold_keeps_sound h hs ht

end Sys2Proof.Machine

/-! SUPPORT. `decodeCSD` as a call of `HOST` (42 R241 to R247). -/

namespace Sys2Proof.Machine

section
variable {s : State} {ct : CardType} {x : Reg128} {l : CsdLayout}

theorem exec_decodeCSD (hct : s.session.cardType = some ct) (hx : s.session.csd.value = some x) (hl : layoutOf ct x = some l) :
    exec .decodeCSD s = .next ((s.setCardInfo (s.session.cardInfo.withCsd x l)).setReturn .idle (.err .ok)) :=
  (finish_ok (decodeCSD_run (s := s.enter .decodeCSD) hct hx hl) :)

theorem exec_decodeCSD_unrecognised (hct : s.session.cardType = some ct)
    (h : ct = .secureDigitalIO ∨ ct = .secureDigitalIOCombo ∨ ct = .unknown) :
    exec .decodeCSD s = .next (s.setReturn .idle (.err .unsupportedFeature)) := by
  obtain ⟨path, hrun⟩ := decodeCSD_unrecognised (b := hostFrame) (s := s.enter .decodeCSD) hct h
  exact (finish_ok hrun :)

end

/-- A decode in layout V1 writes the fields of 42 R242, R243, R245 and R246. -/
theorem CardInfo.withCsd_v1 (c : CardInfo) (x : Reg128) : c.withCsd x (.v1 (Machine.csdV1 x)) = { c with
    csdCommon := some (Machine.csdCommon x), csdKind := some .v1, csdV1 := some (Machine.csdV1 x), csdTail := some (Machine.csdTail x)
    cardBlockSize := some (2 ^ bitsOf x 83 80)
    cardCapacity := some ((bitsOf x 73 62 + 1) * 2 ^ (bitsOf x 49 47 + 2) * 2 ^ bitsOf x 83 80) } := by
  rw [← capacityOf_v1, ← blockSizeOf_v1 x (Machine.csdV1 x)]
  rfl

/-- A decode in layout V2 writes the fields of 42 R242, R244 to R246. -/
theorem CardInfo.withCsd_v2 (c : CardInfo) (x : Reg128) : c.withCsd x (.v2 (Machine.csdV2 x)) = { c with
    csdCommon := some (Machine.csdCommon x), csdKind := some .v2, csdV2 := some (Machine.csdV2 x), csdTail := some (Machine.csdTail x)
    cardBlockSize := some 512, cardCapacity := some ((bitsOf x 69 48 + 1) * 524288) } := by
  rw [← capacityOf_v2]
  rfl

/-- Settles O38: the layout of the class decides which fields `withCsd` writes. -/
theorem csdDecoder : Obligations.CsdDecoder := by
  unfold Obligations.CsdDecoder
  intro s t0 x hct hx
  refine ⟨fun h => ⟨_, _, _, csdCommon_agrees x, csdV1_agrees x, csdTail_agrees x, ?_⟩,
    fun h => ⟨_, _, _, csdCommon_agrees x, csdV2_agrees x, csdTail_agrees x, ?_⟩, exec_decodeCSD_unrecognised hct⟩
  · have hl : layoutOf t0 x = some (.v1 (csdV1 x)) := by rcases h with rfl | rfl <;> rfl
    refine ⟨_, exec_decodeCSD hct hx hl, ?_, rfl, rfl⟩
    rw [CardInfo.withCsd_v1]
    rfl
  · have hl : layoutOf t0 x = some (.v2 (csdV2 x)) := by rw [h]; rfl
    refine ⟨_, exec_decodeCSD hct hx hl, ?_, rfl, rfl⟩
    rw [CardInfo.withCsd_v2]
    rfl

end Sys2Proof.Machine

/-! SUPPORT. Little-endian accesses to memory (20 R80): the bytes a write stores, the bytes it leaves alone, and what a read returns. -/

namespace Sys2Proof.Machine

/-- A write stores nothing outside its `n` addresses. -/
theorem read_memWrite_other {c : Nat} (n : Nat) (m : List Host.Cell) (a v : Nat) (h : ∀ j < n, c ≠ (a + j) % 2 ^ 32) :
    Memory.read c (memWrite m a n v) = Memory.read c m := by
  induction n generalizing m a v with
  | zero => rfl
  | succ n ih =>
    have hrest : ∀ j < n, c ≠ (a + 1 + j) % 2 ^ 32 := fun j hj => by
      rw [Nat.add_right_comm]
      exact h (j + 1) (by omega)
    exact (ih _ _ _ hrest).trans (Memory.read_write_other m _ (h 0 (Nat.succ_pos n)))

/-- A write stores byte `j` of the value at the address `j` above its base, where its addresses do not meet. -/
theorem read_memWrite {n j : Nat} (m : List Host.Cell) (a v : Nat) (hm : Memory.wf m = true) (hn : n ≤ 2 ^ 32) (hj : j < n) :
    Memory.read ((a + j) % 2 ^ 32) (memWrite m a n v) = BitVec.ofNat 8 (v / 256 ^ j) := by
  induction n generalizing m a v j with
  | zero => omega
  | succ n ih =>
    cases j with
    | zero =>
      have hother : ∀ k < n, (a + 0) % 2 ^ 32 ≠ (a + 1 + k) % 2 ^ 32 := fun k hk => by omega
      rw [memWrite, read_memWrite_other n _ _ _ hother, Nat.add_zero, Memory.read_write_same m _ _ 0 hm, Nat.pow_zero, Nat.div_one]
    | succ j =>
      have hbyte := ih (Memory.write (a % 2 ^ 32) (BitVec.ofNat 8 v) m) (a + 1) (v / 256) (Memory.wf_write _ _ hm) (by omega)
        (Nat.lt_of_succ_lt_succ hj)
      rw [memWrite, Nat.add_comm j 1, ← Nat.add_assoc, hbyte, Nat.div_div_eq_div_mul, Nat.pow_add, Nat.pow_one]

/-- A read returns the natural whose bytes stand at its addresses. -/
theorem memRead_of_bytes {m : List Host.Cell} (n a v : Nat) (h : ∀ j < n, Memory.read ((a + j) % 2 ^ 32) m = BitVec.ofNat 8 (v / 256 ^ j)) :
    memRead m a n = v % 256 ^ n := by
  induction n generalizing a v with
  | zero => rw [Nat.pow_zero, Nat.mod_one, memRead]
  | succ n ih =>
    have hrest : ∀ j < n, Memory.read ((a + 1 + j) % 2 ^ 32) m = BitVec.ofNat 8 (v / 256 / 256 ^ j) := fun j hj => by
      rw [Nat.add_assoc, Nat.add_comm 1 j, h (j + 1) (by omega), Nat.div_div_eq_div_mul, Nat.pow_succ']
    have hfirst : Memory.read (a % 2 ^ 32) m = BitVec.ofNat 8 v := by simpa using h 0 (Nat.succ_pos n)
    rw [memRead, ih _ _ hrest, hfirst, BitVec.toNat_ofNat]
    exact (Nat.pow_succ' (m := 256) ▸ Nat.mod_mul (x := v) (a := 256) (b := 256 ^ n)).symm

/-- Settles O8: a write stores the bytes of the value one after the other, and a read puts them together again. -/
theorem memReadsWhatMemWriteStored : Obligations.MemReadsWhatMemWriteStored := by
  unfold Obligations.MemReadsWhatMemWriteStored
  intro m a n v hm hn hv
  have hbyte : ∀ j < n, Memory.read ((a + j) % 2 ^ 32) (memWrite m a n v) = BitVec.ofNat 8 (v / 256 ^ j) := fun j => read_memWrite m a v hm hn
  refine ⟨?_, fun j hj => ?_, fun c => read_memWrite_other n m a v, Memory.wf_memWrite n a v hm⟩
  · rw [memRead_of_bytes n a v hbyte, Nat.mod_eq_of_lt hv]
  · rw [hbyte j hj, BitVec.toNat_ofNat]

end Sys2Proof.Machine

/-! SUPPORT. The IDMA (20 R82): one byte stored or sent, then a run of them in order. -/

namespace Sys2Proof.Machine

/-! ### One byte -/

/-- The address of the byte `j` bytes after the one the IDMA moves next (notes/assumptions/18.md). -/
def Periph.dmaAddress (p : Periph) (j : Nat) : Nat := (p.idmabase0.toNat + p.dmaCount + j) % 2 ^ 32

/-- The controller after the IDMA has moved one more byte. -/
def Periph.dmaNext (p : Periph) : Periph := { p with dmaCount := p.dmaCount + 1 }

theorem Periph.dmaAddress_next (p : Periph) (j : Nat) : p.dmaNext.dmaAddress j = p.dmaAddress (j + 1) := by
  show (p.idmabase0.toNat + (p.dmaCount + 1) + j) % 2 ^ 32 = (p.idmabase0.toNat + p.dmaCount + (j + 1)) % 2 ^ 32
  rw [← Nat.add_assoc, Nat.add_assoc _ 1, Nat.add_comm 1, ← Nat.add_assoc]

/-- Within `DATALENGTH` bytes no two addresses are the same. -/
theorem Periph.dmaAddress_ne {p : Periph} {j k : Nat} (hjk : j < k) (hk : p.dmaCount + k < dataLength p.dlen) : p.dmaAddress j ≠ p.dmaAddress k := by
  have hlen : dataLength p.dlen < 2 ^ 25 := BitVec.isLt _
  unfold Periph.dmaAddress
  omega

/-- The state after the IDMA of controller `i` has stored one byte. -/
def State.dmaStored (s : State) (i : Sdmmc) (b : Byte) : State :=
  (s.setMem (Memory.write ((s.periph i).dmaAddress 0) b s.mem)).setPeriph i (s.periph i).dmaNext

/-- The state after the IDMA of controller `i` has sent one byte. -/
def State.dmaSent (s : State) (i : Sdmmc) : State :=
  { s with sent := s.sent ++ [sentFrom s ((s.periph i).dmaAddress 0) (Memory.read ((s.periph i).dmaAddress 0) s.mem)] }.setPeriph i
    (s.periph i).dmaNext

section
variable {s : State} {i : Sdmmc}

@[simp] theorem State.dmaStored_mem (b : Byte) : (s.dmaStored i b).mem = Memory.write ((s.periph i).dmaAddress 0) b s.mem := State.setPeriph_mem ..
@[simp] theorem State.dmaStored_periph (b : Byte) : (s.dmaStored i b).periph i = (s.periph i).dmaNext := State.periph_setPeriph ..
@[simp] theorem State.dmaSent_mem : (s.dmaSent i).mem = s.mem := State.setPeriph_mem ..
@[simp] theorem State.dmaSent_tainted : (s.dmaSent i).tainted = s.tainted := State.setPeriph_tainted ..
@[simp] theorem State.dmaSent_windows : (s.dmaSent i).windows = s.windows := State.setPeriph_windows ..
@[simp] theorem State.dmaSent_sent : (s.dmaSent i).sent =
    s.sent ++ [sentFrom s ((s.periph i).dmaAddress 0) (Memory.read ((s.periph i).dmaAddress 0) s.mem)] := State.setPeriph_sent ..
@[simp] theorem State.dmaSent_periph : (s.dmaSent i).periph i = (s.periph i).dmaNext := State.periph_setPeriph ..

theorem dmaStore_cons {b : Byte} {rest : List Byte} (h : (s.periph i).dmaCount < dataLength (s.periph i).dlen) :
    dmaStore i (b :: rest) s = dmaStore i rest (s.dmaStored i b) := if_pos h

/-- With no raced byte the card receives what stands in memory. -/
theorem dmaSend_succ {n : Nat} (ht : s.tainted = []) (h : (s.periph i).dmaCount < dataLength (s.periph i).dlen) :
    dmaSend i (n + 1) s = dmaSend i n (s.dmaSent i) := by
  have hbyte : ∀ a, byteForCard s a = (Memory.read a s.mem, s) := fun a => by rw [byteForCard, ht]; rfl
  refine (if_pos h).trans ?_
  rw [hbyte]
  rfl

end

/-! ### A run of bytes -/

/-- The bytes stored lie at the addresses from the first one on, and no other byte changes. -/
theorem dmaStore_stores (i : Sdmmc) (bytes : List Byte) (s : State) (hm : Memory.wf s.mem = true)
    (h : (s.periph i).dmaCount + bytes.length ≤ dataLength (s.periph i).dlen) :
    (∀ j < bytes.length, Memory.read ((s.periph i).dmaAddress j) (dmaStore i bytes s).mem = bytes.getD j 0) ∧
      (∀ c, (∀ j < bytes.length, c ≠ (s.periph i).dmaAddress j) → Memory.read c (dmaStore i bytes s).mem = Memory.read c s.mem) ∧
      ((dmaStore i bytes s).periph i).dmaCount = (s.periph i).dmaCount + bytes.length := by
  induction bytes generalizing s with
  | nil => exact ⟨nofun, fun _ _ => rfl, rfl⟩
  | cons b rest ih =>
    rw [List.length_cons] at h ⊢
    have hcount : (s.periph i).dmaNext.dmaCount = (s.periph i).dmaCount + 1 := rfl
    have hdlen : (s.periph i).dmaNext.dlen = (s.periph i).dlen := rfl
    obtain ⟨hstored, hother, hmoved⟩ := ih (s.dmaStored i b) (by simpa using Memory.wf_write _ _ hm)
      (by rw [State.dmaStored_periph, hcount, hdlen]; omega)
    simp only [State.dmaStored_periph, State.dmaStored_mem, Periph.dmaAddress_next] at hstored hother hmoved
    rw [dmaStore_cons (by omega)]
    refine ⟨fun j hj => ?_, fun c hc => ?_, by rw [hmoved, hcount]; omega⟩
    · cases j with
      | zero =>
        rw [hother _ (fun k hk => Periph.dmaAddress_ne (Nat.succ_pos k) (by omega)), Memory.read_write_same _ _ _ 0 hm]
        rfl
      | succ j => exact hstored j (by omega)
    · rw [hother c (fun j hj => hc (j + 1) (by omega)), Memory.read_write_other _ _ (hc 0 (by omega))]

/-- The bytes sent are those of the addresses from the first one on, in that order. -/
theorem dmaSend_sends (i : Sdmmc) (n : Nat) (s : State) (ht : s.tainted = [])
    (h : (s.periph i).dmaCount + n ≤ dataLength (s.periph i).dlen) :
    (dmaSend i n s).sent = s.sent ++ (List.range n).map (fun j =>
        sentFrom s ((s.periph i).dmaAddress j) (Memory.read ((s.periph i).dmaAddress j) s.mem)) ∧
      (dmaSend i n s).mem = s.mem ∧ ((dmaSend i n s).periph i).dmaCount = (s.periph i).dmaCount + n := by
  induction n generalizing s with
  | zero => exact ⟨(List.append_nil _).symm, rfl, rfl⟩
  | succ n ih =>
    have hcount : (s.periph i).dmaNext.dmaCount = (s.periph i).dmaCount + 1 := rfl
    have hdlen : (s.periph i).dmaNext.dlen = (s.periph i).dlen := rfl
    obtain ⟨hsent, hmem, hmoved⟩ := ih (s.dmaSent i) (by simpa using ht) (by rw [State.dmaSent_periph, hcount, hdlen]; omega)
    have hfrom : ∀ a b, sentFrom (s.dmaSent i) a b = sentFrom s a b := fun a b => sentFrom_windows State.dmaSent_windows a b
    rw [dmaSend_succ ht (by omega)]
    refine ⟨?_, by simpa using hmem, by rw [hmoved, State.dmaSent_periph, hcount]; omega⟩
    simp [hsent, hfrom, Periph.dmaAddress_next, List.range_succ_eq_map, Function.comp_def]

/-- `DATAEND` of an IDMA read is held back before the last byte (20 R82). -/
theorem dataFlagsAllowed_dataend {p : Periph} (hen : p.idmaen = true) (hdir : toController p.dctrl = true)
    (h : p.dmaCount < dataLength p.dlen) : p.dataFlagsAllowed.getLsbD 8 = false := by
  rw [Periph.dataFlagsAllowed, hen, hdir, decide_eq_true h]
  decide

/-- Settles O9: the moves of the IDMA by `dmaStore_stores` and `dmaSend_sends`. -/
theorem idmaMovesTheBuffer : Obligations.IdmaMovesTheBuffer := by
  unfold Obligations.IdmaMovesTheBuffer
  intro s i hen hactive
  have hen' : (s.periph i).idmaen = true := hen
  have hactive' : (s.periph i).dataActive = true := by simpa [Periph.dataActive, Periph.dten] using hactive
  refine ⟨fun hdir hm bytes h => ?_, fun hdir h flags => ?_, fun hdir ht n h => ?_⟩
  · have hdir' : toController (s.periph i).dctrl = true := hdir
    have hmove : applyEnv (.dmaStore i bytes) s = dmaStore i bytes s := if_pos (by simp [hactive', hdir', hen'])
    rw [hmove]
    exact dmaStore_stores i bytes s hm h
  · have hbit : (flags &&& (s.periph i).dataFlagsAllowed).getLsbD 8 = false := by
      rw [BitVec.getLsbD_and, dataFlagsAllowed_dataend hen' hdir h, Bool.and_false]
    have hmove : applyEnv (.dataFlags i flags) s = s.setPeriph i { s.periph i with
        sta := (s.periph i).sta ||| (flags &&& (s.periph i).dataFlagsAllowed) } := if_pos hactive'
    rw [hmove, State.periph_setPeriph, BitVec.getLsbD_or, hbit, Bool.or_false]
  · have hdir' : toController (s.periph i).dctrl = false := hdir
    have hmove : applyEnv (.dmaSend i n) s = dmaSend i n s := if_pos (by simp [hactive', hdir', hen'])
    obtain ⟨hsent, hmem, hmoved⟩ := dmaSend_sends i n s ht h
    rw [hmove]
    refine ⟨hsent.trans ?_, hmem, hmoved⟩
    simp only [sentFrom, bufferInUse, Buffer.covers, Periph.dmaAddress, Bool.decide_and]
    rfl

end Sys2Proof.Machine

/-! SUPPORT. The host program's own loads and stores (20 R90, R91, 70 R428): which are draws, and what they mark. -/

namespace Sys2Proof.Machine

section
variable {s : State} {a : Nat} {d : Dir}

theorem bufferInUse_iff : bufferInUse d s a = true ↔ ∃ w, w ∈ s.windows ∧ w.dir = d ∧ w.base ≤ a ∧ a < w.base + w.len := by
  simp [bufferInUse, Buffer.covers]

theorem loadIsDraw_iff : loadIsDraw s a = true ↔
    (∃ w, w ∈ s.windows ∧ w.dir = .read ∧ w.base ≤ a ∧ a < w.base + w.len) ∨ ∃ w ∈ s.stale, w.base ≤ a ∧ a < w.base + w.len := by
  simp [loadIsDraw, bufferInUse_iff, Buffer.covers]

theorem storeTaints_iff : storeTaints s a = true ↔
    (∃ w, w ∈ s.windows ∧ w.dir = .write ∧ w.base ≤ a ∧ a < w.base + w.len) ∨ s.cfg.cacheHooks = false := by
  rw [storeTaints, Bool.or_eq_true, bufferInUse_iff, Bool.not_eq_true', or_comm]

/-- An access leaves the read buffers in use at its address stale (70 R428). -/
theorem mem_touch_stale (w : Buffer) : w ∈ (touch a s).stale ↔
    w ∈ s.stale ∨ (w ∈ s.windows ∧ w.dir = .read ∧ w.base ≤ a ∧ a < w.base + w.len) := by
  by_cases hw : w ∈ s.stale <;> simp [touch, Buffer.covers, hw]

/-- An access outside every read buffer in use marks nothing. -/
theorem touch_outside (h : ∀ w, ¬(w ∈ s.windows ∧ w.dir = .read ∧ w.base ≤ a ∧ a < w.base + w.len)) : touch a s = s := by
  have hnone : s.windows.filter (fun w => w.dir = .read && w.covers a && !s.stale.contains w) = [] := by
    refine List.filter_eq_nil_iff.2 (fun w hw hmarked => h w ?_)
    simp only [Buffer.covers, Bool.and_eq_true, decide_eq_true_eq] at hmarked
    exact ⟨hw, hmarked.1⟩
  rw [touch, hnone]
  rfl

end

section
variable (s : State) (a : Word) (v : Byte)

/-- A store makes its address one whose byte is a draw, or leaves the marks (20 R90, R91). -/
theorem mem_hostStore_tainted (c : Nat) : c ∈ (hostStore a v s).tainted ↔ c ∈ s.tainted ∨ (c = a.toNat ∧ storeTaints s a.toNat = true) := by
  show c ∈ (if (storeTaints s a.toNat && !s.tainted.contains a.toNat) = true then a.toNat :: s.tainted else s.tainted) ↔ _
  by_cases ht : storeTaints s a.toNat = true
  · by_cases hmem : a.toNat ∈ s.tainted
    · simp only [ht, List.contains_iff_mem.2 hmem, Bool.not_true, Bool.and_false, Bool.false_eq_true, if_false]
      exact ⟨.inl, fun h => h.elim id (fun hc => hc.1 ▸ hmem)⟩
    · simp [ht, hmem, or_comm]
  · simp [ht]

/-- The byte the card is sent after a store: a draw where the address is marked, else the byte stored. -/
theorem byteForCard_draw {a : Nat} (h : a ∈ s.tainted) : byteForCard s a = (Config.freeByte s.draws, s.setDraws (s.draws + 1)) :=
  if_pos (List.contains_iff_mem.2 h)

theorem byteForCard_hostStore (h : a.toNat ∉ (hostStore a v s).tainted) (hm : Memory.wf s.mem = true) :
    byteForCard (hostStore a v s) a.toNat = (v, hostStore a v s) := by
  rw [byteForCard, if_neg (fun hc => h (List.contains_iff_mem.1 hc))]
  exact congrArg (·, hostStore a v s) (Memory.read_write_same s.mem a.toNat v 0 hm)

end

/-- Settles O11: a load by `loadIsDraw`, a store by its marks and by `redraw`. -/
theorem bufferRacesAreDraws : Obligations.BufferRacesAreDraws := by
  unfold Obligations.BufferRacesAreDraws
  intro s a inUse isStale
  refine ⟨fun h => ⟨(touch a.toNat s).stale, mem_touch_stale, ?_⟩, fun hread hstale => ?_, fun v => ⟨hostStore a v s, rfl, ?_⟩⟩
  · show Host.Outcome.next (hostLoad a s) = _
    rw [hostLoad, if_pos (loadIsDraw_iff.2 h)]
    rfl
  · have hnot : ¬loadIsDraw s a.toNat = true := fun h => (loadIsDraw_iff.1 h).elim (fun ⟨w, hw⟩ => hread w hw) hstale
    show Host.Outcome.next (hostLoad a s) = _
    rw [hostLoad, if_neg hnot, touch_outside hread]
  · obtain ⟨hlength, hdraws, hbytes⟩ := redraw_spec a.toNat s.sent s.draws
    refine ⟨?_, hlength, fun j x hx => ?_, mem_touch_stale, fun c => ?_, fun h => byteForCard_draw _ h,
      fun h hm => byteForCard_hostStore s a v h hm⟩
    · rw [← hdraws]
      rfl
    · show (redraw a.toNat s.sent s.draws).1[j]? = _
      simpa using hbytes j x hx
    · rw [mem_hostStore_tainted, storeTaints_iff]

end Sys2Proof.Machine

/-! SUPPORT. The check calls (44 R316, R317) without a recorded error. -/

namespace Sys2Proof.Machine

section
variable {g : Agent} {f : Sdmmc → Act Unit} {cs : List Point} {pt : Point} {s : State} {d : Dir}

/-- A read of the Transfer State when the schedule is used up. -/
theorem xferRead_still {α : Type} (hs : s.sched = []) (h : Transfer → α) :
    xferRead (frameOf g f cs) pt h s = .ok (h s.xfer) (s.moved g (cs ++ [pt])) := by
  rw [xferRead_quiet (by rw [hs]; rfl), hs, List.tail_nil, setSched_self hs]

@[simp] theorem State.reportEnd_moved (s : State) (n : List Point) : (s.moved g n).reportEnd d = (s.reportEnd d).moved g n := by cases g <;> rfl

theorem run_closeWindow_bind {β : Type} (d : Dir) (k : Unit → Act β) (s : State) : (closeWindow d >>= k) s = k () (s.reportEnd d) := rfl

/-- The check call in its form (44 R316). -/
theorem checkTransfer_form (b : Frame) (d : Dir) (s : State) :
    checkTransfer b d s = (match s.cfg.checkForm with | .nested => checkNested b d | .errorFirst => checkErrorFirst b d) s := rfl

/-- A transfer that has ended is reported, and its buffers are handed back. -/
theorem checkTransfer_ended (hs : s.sched = []) (hd : inProgress d s.xfer = false) (h : s.xfer.error = .ok ∨ s.cfg.checkForm = .nested) :
    ∃ path, checkTransfer (frameOf g f cs) d s = .ok .ok ((s.reportEnd d).moved g path) := by
  rw [checkTransfer_form]
  cases hform : s.cfg.checkForm with
  | nested =>
    show ∃ path, checkNested _ d s = _
    rw [checkNested, run_bind_ok (xferRead_still hs _), hd, if_neg (by decide), run_closeWindow_bind, run_pass_bind]
    exact ⟨_, by simp; rfl⟩
  | errorFirst =>
    have herr : s.xfer.error = .ok := h.resolve_right (by simp [hform])
    show ∃ path, checkErrorFirst _ d s = _
    rw [checkErrorFirst, run_bind_ok (xferRead_still hs _), herr, if_pos rfl,
      run_bind_ok (xferRead_still (by simpa using hs) _), State.moved_xfer, hd, if_neg (by decide), run_closeWindow_bind, run_pass_bind]
    exact ⟨_, by simp; rfl⟩

/-- A transfer in progress without a recorded error is `Busy`. -/
theorem checkTransfer_busy (hs : s.sched = []) (hd : inProgress d s.xfer = true) (h : s.xfer.error = .ok) :
    ∃ path, checkTransfer (frameOf g f cs) d s = .ok .busy (s.moved g path) := by
  have hs' : ∀ path, (s.moved g path).sched = [] := fun path => by simpa using hs
  rw [checkTransfer_form]
  cases hform : s.cfg.checkForm with
  | nested =>
    show ∃ path, checkNested _ d s = _
    rw [checkNested, run_bind_ok (xferRead_still hs _), hd, if_pos rfl, run_bind_ok (xferRead_still (hs' _) _), State.moved_xfer, h, if_pos rfl,
      run_pass_bind]
    exact ⟨_, by simp; rfl⟩
  | errorFirst =>
    show ∃ path, checkErrorFirst _ d s = _
    rw [checkErrorFirst, run_bind_ok (xferRead_still hs _), h, if_pos rfl, run_bind_ok (xferRead_still (hs' _) _), State.moved_xfer, hd, if_pos rfl,
      run_pass_bind]
    exact ⟨_, by simp; rfl⟩

theorem exec_checkCall (d : Dir) (s : State) : exec (checkCall d) s = finish (checkCall d) .err (checkTransfer hostFrame d) s := by cases d <;> rfl

theorem State.mem_reportEnd_windows (w : Buffer) : w ∈ (s.reportEnd d).windows ↔ w ∈ s.windows ∧ w.dir ≠ d := by simp [State.reportEnd]

theorem State.reportEnd_sent : (s.reportEnd d).sent = (match d with | .read => s.sent | .write => s.sent.map (fun x => ⟨x.byte, none⟩)) := by
  cases d <;> rfl

end

/-- Settles O50: both forms of the check call read the same two fields, in their own order. -/
theorem checkCallPolls : Obligations.CheckCallPolls := by
  unfold Obligations.CheckCallPolls
  intro s d hs
  refine ⟨fun hd h => ?_, fun hd h => ?_⟩
  · obtain ⟨path, hrun⟩ := checkTransfer_ended (g := .host) (f := takeIrq irqHandler) (cs := []) (s := s.enter (checkCall d)) hs hd h
    refine ⟨_, (exec_checkCall d s).trans (finish_ok hrun), rfl, State.reportEnd_sent, State.mem_reportEnd_windows⟩
  · obtain ⟨path, hrun⟩ := checkTransfer_busy (g := .host) (f := takeIrq irqHandler) (cs := []) (s := s.enter (checkCall d)) hs hd h
    exact ((exec_checkCall d s).trans (finish_ok hrun) :)

end Sys2Proof.Machine

/-! SUPPORT. Operations that no interrupt meets, whatever `ENV` does between their steps, and how they stop; the admission of a call by the two
in-progress flags (20 R89, 41 R200, R228, 44 R302). -/

namespace Sys2Proof.Machine

/-! ### Operations that stop in one way -/

section
variable {α β : Type} {E F : Stop → State → Prop} {I J : State → Prop} {x : Stop}

/-- More ways to stop may be allowed. -/
theorem Spec.allowStop {m : Act α} {Q : α → State → Prop} (h : Spec E I m Q) (hE : ∀ e s, E e s → F e s) : Spec F I m Q := by
  intro s hs
  have hm := h s hs
  cases hr : m s with
  | ok a t => rw [hr] at hm; exact hm
  | error e t => rw [hr] at hm; exact hE e t hm

theorem Steps.allowStop {g : Agent} {bt : Act Unit} (h : Steps E I g bt) (hE : ∀ e s, E e s → F e s) : Steps F I g bt where
  between := h.between.allowStop hE
  moved := h.moved

/-- The only way the steps stop. -/
def Only (x : Stop) (e : Stop) (_ : State) : Prop := e = x

/-- From a state with `I` the operation never returns: it stops with `x`. -/
abbrev StopsWith (x : Stop) (I : State → Prop) (m : Act α) : Prop := Spec (Only x) I m (fun _ _ => False)

theorem StopsWith.run {m : Act α} (h : StopsWith x I m) {s : State} (hs : I s) : ∃ t, m s = .error x t := by
  have hm := h s hs
  cases hr : m s with
  | ok a t => rw [hr] at hm; exact hm.elim
  | error e t =>
    rw [hr] at hm
    obtain rfl : e = x := hm
    exact ⟨t, rfl⟩

/-- What follows an operation that stops is never reached. -/
theorem StopsWith.bind {m : Act α} (h : StopsWith x I m) (f : α → Act β) : StopsWith x I (m >>= f) :=
  Spec.bind h (fun _ _ hs => hs.elim)

theorem StopsWith.thenOk {op : Act Err} (h : StopsWith x I op) (rest : Act Err) : StopsWith x I (thenOk op rest) := StopsWith.bind h _

theorem StopsWith.mono {m : Act α} (h : StopsWith x J m) (hI : ∀ s, I s → J s) : StopsWith x I m := Spec.imp h hI (fun _ _ h => h)

theorem StopsWith.exec_fault {f : Fault} {i : Instr} {r : α → Result} {op : Act α} (h : StopsWith (.fault f) I op) {s : State} (hs : I (s.enter i)) :
    finish i r op s = .fault f := by
  obtain ⟨t, ht⟩ := h.run hs
  exact conclude_fault ht

theorem StopsWith.exec_refused {e : Refusal} {i : Instr} {r : α → Result} {op : Act α} (h : StopsWith (.refused e) I op) {s : State}
    (hs : I (s.enter i)) : finish i r op s = .refused e := by
  obtain ⟨t, ht⟩ := h.run hs
  exact conclude_refused ht

end

/-! ### What `ENV` cannot change -/

/-- The session, the Transfer State and the parameters are as in `s`, and no interrupt is to come. -/
def Undisturbed (s t : State) : Prop := (t.session = s.session ∧ t.xfer = s.xfer ∧ t.cfg = s.cfg) ∧ NoInterrupt t

theorem Undisturbed.session {s t : State} (h : Undisturbed s t) : t.session = s.session := h.1.1
theorem Undisturbed.xfer {s t : State} (h : Undisturbed s t) : t.xfer = s.xfer := h.1.2.1
theorem Undisturbed.cfg {s t : State} (h : Undisturbed s t) : t.cfg = s.cfg := h.1.2.2

theorem undisturbed_enter {s : State} (h : NoInterrupt s) (x : Instr) : Undisturbed s (s.enter x) := ⟨⟨rfl, rfl, rfl⟩, h⟩

section
variable {E : Stop → State → Prop} {s : State} {cs : List Point} {pt : Point}

theorem undisturbed_steps : Steps E (Undisturbed s) .host hostFrame.between := by
  have henv : EnvFree (fun t => t.session = s.session ∧ t.xfer = s.xfer ∧ t.cfg = s.cfg) := ⟨fun _ _ h => h, fun _ _ h => by simpa using h⟩
  exact (hostSteps_noInterrupt henv (fun _ _ h => h)).allowStop (fun _ _ h => h.elim)

/-- A read of the Transfer State sees what the call began with. -/
theorem xferRead_undisturbed {α : Type} (f : Transfer → α) :
    Spec E (Undisturbed s) (xferRead (frameOf .host (takeIrq irqHandler) cs) pt f) (fun a t => Undisturbed s t ∧ a = f s.xfer) :=
  (undisturbed_steps.step pt).bind (fun _ _ ht => ⟨ht, congrArg f ht.xfer⟩)

theorem readOr_undisturbed {α : Type} {f : State → Option α} {a : α} (h : ∀ t, Undisturbed s t → f t = some a) :
    Spec E (Undisturbed s) (readOr f) (fun b t => Undisturbed s t ∧ b = a) :=
  Spec.readOr (fun t ht hn => by simp [h t ht] at hn) (fun t b ht hb => ⟨ht, Option.some.inj (hb.symm.trans (h t ht))⟩)

theorem readOr_unwritten {α : Type} {f : State → Option α} (h : ∀ t, Undisturbed s t → f t = none) :
    StopsWith (.fault .unwrittenSession) (Undisturbed s) (readOr f) :=
  Spec.readOr (fun _ _ _ => rfl) (fun t b ht hb => by simp [h t ht] at hb)

/-- The value of an operation is known where it returns. -/
theorem Spec.known {α β : Type} {I J : State → Prop} {m : Act α} {a : α} {f : α → Act β} {Q : β → State → Prop}
    (hm : Spec E I m (fun b t => J t ∧ b = a)) (hf : Spec E J (f a) Q) : Spec E I (m >>= f) Q := by
  refine hm.bind (fun b => ?_)
  rintro t ⟨ht, rfl⟩
  exact hf t ht

/-! ### The admission -/

/-- A call while a transfer is in progress is refused, where no interrupt ends the transfer. -/
theorem refuseOutstanding_refuses (h : s.xfer.rxCplt = true ∨ s.xfer.txCplt = true) (proc : Proc) (line : Nat) :
    StopsWith (.refused .transferOutstanding) (Undisturbed s) (refuseOutstanding hostFrame proc line) := by
  refine (xferRead_undisturbed _).known ((xferRead_undisturbed _).known ?_)
  have hgo : (s.xfer.rxCplt || s.xfer.txCplt) = true := by simpa using h
  rw [hgo, refuseIf_true]
  exact Spec.refuse (fun _ _ => rfl)

/-- A call while no transfer is in progress passes. -/
theorem refuseOutstanding_admits (hrx : s.xfer.rxCplt = false) (htx : s.xfer.txCplt = false) (proc : Proc) (line : Nat) :
    Spec E (Undisturbed s) (refuseOutstanding hostFrame proc line) (fun _ => Undisturbed s) := by
  refine (xferRead_undisturbed _).known ((xferRead_undisturbed _).known ?_)
  rw [hrx, htx]
  exact Spec.pure (fun _ h => h)

end

/-! ### SD_Initialize_LL (41 R200) -/

section
variable {g : Agent} {f : Sdmmc → Act Unit} {cs : List Point} {pt : Point} {s : State}

/-- The admission of a call over two quiet boundaries. -/
theorem refuseOutstanding_passes {rest : List (List Move)} (hs : s.sched = admissionScript ++ rest) (hrx : s.xfer.rxCplt = false)
    (htx : s.xfer.txCplt = false) (proc : Proc) (line : Nat) : refuseOutstanding (frameOf g f cs) proc line s =
      .ok () ((s.setSched rest).moved g (cs ++ [⟨proc, line, 2⟩])) := by
  rw [refuseOutstanding_quiet (rest := rest) hs, hrx, htx]
  rfl

theorem pinClockSetup_quiet (hq : s.sched.headD [] = []) (i : Sdmmc) : pinClockSetup (frameOf g f cs) pt i s =
    .ok () (((s.setSched s.sched.tail).setPeriph i { Periph.reset with clocked := true, routed := (s.periph i).routed }).moved g (cs ++ [pt])) := by
  rw [pinClockSetup, run_bind_ok (step_quiet hq)]
  simp

theorem irqEnable_quiet (hq : s.sched.headD [] = []) (i : Sdmmc) : irqEnable (frameOf g f cs) pt i s =
    .ok () (((s.setSched s.sched.tail).setPeriph i { s.periph i with routed := true }).moved g (cs ++ [pt])) := by
  rw [irqEnable, run_bind_ok (step_quiet hq)]
  simp

/-- A call of `SD_Initialize_LL` over quiet boundaries. -/
theorem sdInitializeLL_run {sel : Sdmmc} {rest : List (List Move)} (hrx : s.xfer.rxCplt = false) (htx : s.xfer.txCplt = false)
    (hs : s.sched = admissionScript ++ (quiet 2 ++ rest)) : ∃ path, sdInitializeLL (frameOf g f cs) sel s =
      .ok () ((((s.setSched rest).setPeriph sel { Periph.reset with clocked := true, routed := true }).setSession
        { s.session with bound := some sel, powered := false }).moved g path) := by
  rw [sdInitializeLL, run_bind_ok (refuseOutstanding_passes hs hrx htx ..), run_sessionWrite_bind,
    run_bind_ok (pinClockSetup_quiet (by simp [quiet]) _), run_bind_ok (irqEnable_quiet (by simp [quiet]) _), run_sessionWrite]
  refine ⟨cs ++ [⟨.sdInitializeLL, 4, 0⟩], ?_⟩
  simp [quiet, State.setPeriph_setSched]
  cases sel <;> rfl

end

/-- Settles O29: the admission reads the two flags, then the set-up writes one controller and two session fields. -/
theorem initializeLowLevelBinds : Obligations.InitializeLowLevelBinds := by
  unfold Obligations.InitializeLowLevelBinds
  refine ⟨fun s rest a hidle hp ha => ?_, fun s sel rest => ⟨fun hrx htx hs => ?_, fun hn h => ?_⟩⟩
  · exact callsOutsideTableRefused.2.1 s rest 0x01 [a] hidle hp (.inl ⟨a, rfl, rfl, ha⟩)
  · obtain ⟨path, hrun⟩ := sdInitializeLL_run (g := .host) (f := takeIrq irqHandler) (cs := []) (s := s.enter (.sdInitializeLL sel)) (sel := sel)
      (rest := rest) hrx htx (by simpa using hs)
    refine (finish_ok hrun).trans ?_
    cases sel <;> rfl
  · exact StopsWith.exec_refused ((refuseOutstanding_refuses h _ _).bind _) (undisturbed_enter hn _)

end Sys2Proof.Machine

/-! SUPPORT. The end of the handler whatever `ENV` does between its steps (60 R356, R361, R365): its sources disabled, every static flag clear. -/

namespace Sys2Proof.Machine

/-! ### The branches of the handler write no `MASK` -/

section
variable {E : Stop → State → Prop} {I : State → Prop} {W : Reg → Word → Prop} {g : Agent} {bt : Act Unit} {cs : List Point}

/-- The transfer-end branch writes `CMDR`, `IDMACTRL` and the registers of a command (60 R362). -/
theorem transferEnd_writes (h : Regs E I W) (hw : CommandWords W) (hd : ∀ v, W .idmactrl v) (hf : HandlerFree E I) (hb : Steps E I g bt) :
    Spec E I (transferEnd ⟨g, bt, cs⟩) (fun _ => I) := by
  refine (regClr_keeps h hb (fun v _ => hw.cmdr _)).seq (fun _ => ?_)
  refine (regWrite_keeps h hb (hd _)).seq (fun _ => ?_)
  refine (readOperation_keeps hf hb).seq (fun op => ?_)
  have hstop : Spec E I (stopCommand ⟨g, bt, cs⟩) (fun _ => I) :=
    (transmitCommand_keeps' h hw hf.appCmd hb 12 0 (by decide) (by decide)).seq (fun _ => Spec.pure (fun _ h => h))
  refine Spec.seq (onlyIf_keeps (fun _ => hstop)) (fun _ => ?_)
  refine (readOperation_keeps hf hb).seq (fun op => ?_)
  refine (xferWrite_keeps hb (fun s hs => hf.clear s _ hs)).seq (fun _ => ?_)
  exact (xferWrite_keeps hb hf.complete).seq (fun _ => recordError_keeps hf hb .ok)

/-- So does each branch of the handler (60 R360). -/
theorem handleEvent_writes (h : Regs E I W) (hw : CommandWords W) (hd : ∀ v, W .idmactrl v) (hf : HandlerFree E I) (hb : Steps E I g bt)
    (sta : Word) : Spec E I (handleEvent ⟨g, bt, cs⟩ sta) (fun _ => I) := by
  refine hb.passed (fun _ => Spec.ite (fun _ => transferEnd_writes h hw hd hf hb) (fun _ => hb.passed (fun _ => Spec.ite
    (fun _ => (regWrite_keeps h hb (hd _)).seq (fun _ => recordError_keeps hf hb _)) (fun _ => hb.passed (fun _ => ?_)))))
  cases handlerError sta with
  | some e => exact recordError_keeps hf hb e
  | none => exact Spec.pure (fun _ h => h)

end

/-! ### The handler's assertions -/

/-- What `STA` shows of the FIFO is all that `keepRx` changes. -/
theorem Periph.keepRx_eq (p : Periph) : ∃ sta, p.keepRx = { p with sta := sta } := by
  rw [Periph.keepRx]
  split
  · exact ⟨_, rfl⟩
  · exact ⟨p.sta, rfl⟩

@[simp] theorem Periph.keepRx_mask (p : Periph) : p.keepRx.mask = p.mask := by
  obtain ⟨sta, h⟩ := p.keepRx_eq
  rw [h]

/-- `ENV` writes no `MASK`. -/
theorem Periph.EnvStep.mask {p q : Periph} (h : p.EnvStep q) : q.mask = p.mask := by
  cases h with
  | dynFlags flags => exact Periph.keepRx_mask _
  | respond r v => cases r <;> rfl
  | reservedBits r v => cases r <;> rfl
  | _ => rfl

/-- A write of a register other than `MASK` keeps it. -/
theorem Periph.write_mask_other (p : Periph) {r : Reg} (v : Word) (h : r ≠ .mask) : (p.write r v).mask = p.mask := by
  cases r with
  | mask => exact absurd rfl h
  | idmactrl => exact Periph.keepRx_mask _
  | dctrl => rw [Periph.write]; split <;> rfl
  | _ => rfl

@[simp] theorem Periph.afterRead_mask (p : Periph) (r : Reg) : (p.afterRead r).mask = p.mask := by cases r <;> rfl

/-- Controller `i` is bound in the session `n`, and its transfer sources are disabled where `off` says so. -/
def HandlerIn (n : Session) (i : Sdmmc) (off : Prop) (s : State) : Prop :=
  (s.session = n ∧ n.bound = some i) ∧ (off → (s.periph i).mask &&& xferIrqs = 0)

/-- The words that keep disabled sources disabled. -/
def MaskKept (off : Prop) (r : Reg) (v : Word) : Prop := off → r = .mask → v &&& xferIrqs = 0

section
variable {n : Session} {i : Sdmmc} {off : Prop}

theorem HandlerIn.bound {s : State} (h : HandlerIn n i off s) : s.session.bound = some i := by rw [h.1.1, h.1.2]

theorem handlerIn_setPeriph {s : State} (h : HandlerIn n i off s) {j : Sdmmc} {p : Periph}
    (hp : off → p.mask = (s.periph j).mask ∨ p.mask &&& xferIrqs = 0) : HandlerIn n i off (s.setPeriph j p) := by
  refine ⟨⟨by simpa using h.1.1, h.1.2⟩, fun ho => ?_⟩
  by_cases hj : i = j
  · subst hj
    rw [State.periph_setPeriph]
    exact (hp ho).elim (fun hmask => hmask ▸ h.2 ho) id
  · rw [State.periph_setPeriph_ne _ _ hj]
    exact h.2 ho

theorem handlerIn_regs : Regs NoHold (HandlerIn n i off) (MaskKept off) where
  unbound _ _ _ := trivial
  read s j r h _ := handlerIn_setPeriph h (fun _ => .inl (Periph.afterRead_mask ..))
  value s j r h hj ho := by
    rintro rfl
    obtain rfl : i = j := Option.some.inj (h.bound.symm.trans hj)
    exact h.2 ho
  free v _ := nofun
  write s j r v h _ hv := by
    refine handlerIn_setPeriph h (fun ho => ?_)
    by_cases hr : r = .mask
    · subst hr
      exact .inr (hv ho rfl)
    · exact .inl (Periph.write_mask_other _ v hr)
  draws _ _ h := h

theorem handlerIn_commandWords : CommandWords (MaskKept off) := ⟨fun _ _ => nofun, fun _ _ => nofun, fun _ _ => nofun⟩

theorem handlerIn_handlerFree : HandlerFree NoHold (HandlerIn n i off) where
  appCmd _ _ h := h
  clear _ _ h := h
  complete _ h := h
  error _ _ h := h
  operation _ _ _ := trivial

theorem handlerIn_steps : Steps NoHold (HandlerIn n i off) .irq irqFrame.between := by
  refine irqSteps_keep ⟨fun _ _ h => h, fun s m h => ⟨by simpa using h.1, fun ho => ?_⟩⟩ (fun _ _ h => h)
  rw [(envStep_applyEnv m s i).mask]
  exact h.2 ho

/-- The state in which the handler ends: its last write cleared the static flags of the bound controller. -/
def HandlerDone (n : Session) (i : Sdmmc) (s : State) : Prop :=
  s.session = n ∧ (s.periph i).mask &&& xferIrqs = 0 ∧ (s.periph i).sta &&& staticFlags = 0

/-- Line 2 of the handler disables the sources (60 R361). -/
theorem regClr_mask_disables : Spec NoHold (HandlerIn n i False) (regClr irqFrame .irqHandler 2 .mask xferIrqs) (fun _ => HandlerIn n i True) := by
  refine (regRead_keeps handlerIn_regs handlerIn_steps .mask).seq (fun v => ?_)
  refine (regWrite_lands handlerIn_regs handlerIn_steps .mask _).post (fun _ t => ?_)
  rintro ⟨s, j, h, hj, rfl⟩
  obtain rfl : i = j := Option.some.inj (h.bound.symm.trans hj)
  refine ⟨⟨by simpa using h.1.1, h.1.2⟩, fun _ => ?_⟩
  rw [State.periph_setPeriph]
  show v &&& ~~~xferIrqs &&& xferIrqs = 0
  rw [BitVec.and_assoc, BitVec.and_comm (~~~_), BitVec.and_not_self]
  exact BitVec.and_zero

/-- The whole handler, whatever `ENV` does between its steps. -/
theorem irqHandler_disables : Spec NoHold (HandlerIn n i False) irqHandler (fun _ => HandlerDone n i) := by
  refine (regRead_keeps handlerIn_regs handlerIn_steps .sta).seq (fun sta => regClr_mask_disables.bind (fun _ => ?_))
  refine (handleEvent_writes handlerIn_regs handlerIn_commandWords (fun _ _ => nofun) handlerIn_handlerFree handlerIn_steps sta).seq (fun _ => ?_)
  refine (regWrite_lands handlerIn_regs handlerIn_steps .icr _).post (fun _ t => ?_)
  rintro ⟨s, j, h, hj, rfl⟩
  obtain rfl : i = j := Option.some.inj (h.bound.symm.trans hj)
  refine ⟨by simpa using h.1.1, ?_, ?_⟩ <;> rw [State.periph_setPeriph]
  · exact h.2 trivial
  · exact clearedBy_staticFlags_and _

end

/-- An entry of the bound controller's interrupt is the handler between its entry and its return (60 R370 to R372). -/
theorem exec_irqEntry_bound {s : State} {i : Sdmmc} (hi : s.session.bound = some i) :
    exec (irqEntry i) s = finishOutside (irqHandler >>= fun _ => leaveIrq) s.entered := by
  rw [exec_irqEntry, finishOutside, runHandler_bound hi]
  rfl

/-- Settles O60: line 2 disables the sources, no later step writes `MASK`, and the last one clears the static flags. -/
theorem handlerDisablesItsSources : Obligations.HandlerDisablesItsSources := by
  unfold Obligations.HandlerDisablesItsSources
  have hunbound : ∀ (s : State) (i : Sdmmc), s.session.bound ≠ some i → exec (irqEntry i) s = .refused .badCall := fun s i hi => by
    rw [exec_irqEntry, finishOutside, runHandler_unbound hi]
  refine ⟨fun s t i ht => ?_, hunbound⟩
  by_cases hi : s.session.bound = some i
  · rw [exec_irqEntry_bound hi] at ht
    have hdone := (irqHandler_disables (n := s.session) (i := i)).bind
      (f := fun _ => leaveIrq) (Q := fun _ t => HandlerDone s.session i t ∧ t.irqStep = .idle)
      (fun _ => Spec.update (fun s h => ⟨by simpa [HandlerDone] using h, rfl⟩))
    obtain ⟨⟨hsession, hmask, hsta⟩, hidle⟩ := finishOutside_spec hdone (fun _ _ h => h.elim)
      (show HandlerIn s.session i False s.entered from ⟨⟨rfl, hi⟩, nofun⟩) ht
    exact ⟨hi, hsession, hmask, hsta, hidle⟩
  · rw [hunbound s i hi] at ht
    cases ht

end Sys2Proof.Machine

/-! SUPPORT. What an instruction writes of the session and the Transfer State: an assertion that the writes of an instruction keep is kept by it,
whatever `ENV` and `IRQ` do. -/

namespace Sys2Proof.Machine

/-! ### The writes of an instruction, by its kind -/

/-- The assertion is kept by what the kind of the instruction writes beside registers. -/
structure MayWrite (I : State → Prop) (x : Instr) : Prop where
  rca : Instr.mayLatchRca x = true → RcaFree I
  bind : ∀ sel, x = .sdInitializeLL sel → BindFree I
  init : ∀ d, x = .sdInit d → InitFree I
  arm : ∀ d a b z n, x = transferCall d a b z n → ArmFree I
  check : ∀ d, x = checkCall d → CheckFree I d
  info : x = .sdGetCardInfo ∨ x = .decodeCSD ∨ x = .decodeCID → CardInfoFree I
  ssr : SsrFree I
  status : ∀ out, x = .sdGetCardStatus out → StatusFree I
  power : x = .powerOn → PowerOnFree I
  identify : x = .initializeCard → IdentifyFree I
  scr : x = .findSCR ∨ (∃ m, x = .wideBusOperationConfig m) → ScrFree I
  irq : ∀ i, x = irqEntry i → Spec (Partial I) I (runHandler irqHandler i) (fun _ => I)

theorem MayWrite.writes {I : State → Prop} {x : Instr} (h : MayWrite I x) : Writes I x := by
  cases x with
  | cmd3 | decodeR6 r => exact h.rca rfl
  | transmitCommand c a rt | classify c rt => exact fun h6 => h.rca (decide_eq_true ((toInt_eq_responseType rt).2.2.2.2 h6))
  | sdInitializeLL sel => exact h.bind sel rfl
  | sdInit d => exact h.init d rfl
  | sdReadBlocksDMA a b z n => exact h.arm .read a b z n rfl
  | sdWriteBlocksDMA a b z n => exact h.arm .write a b z n rfl
  | sdCheckRead => exact h.check .read rfl
  | sdCheckWrite => exact h.check .write rfl
  | sdGetCardInfo => exact h.info (.inl rfl)
  | decodeCSD => exact h.info (.inr (.inl rfl))
  | decodeCID => exact h.info (.inr (.inr rfl))
  | sdGetCardStatus out => exact ⟨h.ssr, h.status out rfl⟩
  | sendSDStatus => exact h.ssr
  | powerOn => exact h.power rfl
  | initializeCard => exact h.identify rfl
  | findSCR => exact h.scr (.inl rfl)
  | wideBusOperationConfig m => exact h.scr (.inr ⟨m, rfl⟩)
  | sdmmc1IRQHandler => exact h.irq .sdmmc1 rfl
  | sdmmc2IRQHandler => exact h.irq .sdmmc2 rfl
  | _ => trivial

/-! ### Assertions about the session and the Transfer State -/

/-- An assertion about the session and the Transfer State only. -/
def About (P : Session → Transfer → Prop) (s : State) : Prop := P s.session s.xfer

/-- The handler's writes of the Transfer State keep the assertion (60 R362 to R364). -/
structure HandlerWrites (P : Session → Transfer → Prop) : Prop where
  clear : ∀ n x d, P n x → P n (clearInProgress d x)
  complete : ∀ n x, P n x → P n { x with complete := true }
  error : ∀ n x e, P n x → P n { x with error := e }

section
variable {P : Session → Transfer → Prop} {E : Stop → State → Prop}

theorem about_regs (hu : ∀ s, E (.fault .unbound) s) : Regs E (About P) AnyWord where
  unbound s _ _ := hu s
  read s i r h _ := by simpa [About] using h
  value _ _ _ _ _ := trivial
  free _ := trivial
  write s i r v h _ _ := by simpa [About] using h
  draws _ _ h := h

theorem about_envFree : EnvFree (About P) := ⟨fun _ _ h => h, fun s m h => by simpa [About] using h⟩

theorem about_handlerFree (hw : HandlerWrites P) (hu : ∀ s, E (.fault .unwrittenSession) s) : HandlerFree E (About P) where
  appCmd _ _ h := h
  clear s d h := hw.clear s.session s.xfer d h
  complete s h := hw.complete s.session s.xfer h
  error s e h := hw.error s.session s.xfer e h
  operation s _ _ := hu s

theorem about_boundary (hw : HandlerWrites P) (hf : ∀ f s, E (.fault f) s) (hr : ∀ r s, E (.refused r) s) :
    Steps E (About P) .host hostFrame.between :=
  hostSteps_keep (about_regs (hf _)) anyWord_words (about_handlerFree hw (hf _)) about_envFree (fun _ _ h => h) (fun _ _ h => h) (fun s _ => hr _ s)

theorem about_machine (hw : HandlerWrites P) : MachineKeeps (About P) AnyWord where
  host := ⟨about_regs (fun _ => trivial), anyWord_words, fun _ _ h => h,
    about_boundary hw (fun _ _ => trivial) (fun _ _ => trivial), partial_stops⟩
  hostStep _ _ h := h

theorem about_irq (hw : HandlerWrites P) (i : Sdmmc) : Spec (Partial (About P)) (About P) (runHandler irqHandler i) (fun _ => About P) :=
  runHandler_keeps (about_regs (fun _ => trivial)) anyWord_words (about_handlerFree hw (fun _ => trivial)) about_envFree (fun _ _ h => h)
    (fun _ _ => trivial) i

theorem about_returns : Returns (About P) (About P) := ⟨fun _ _ h => h, fun _ _ _ h => h, fun _ h => h⟩

/-- An instruction keeps an assertion that its writes and those of the handler keep. -/
theorem about_exec (hw : HandlerWrites P) {x : Instr} (hx : MayWrite (About P) x) {s t : State} (hs : About P s) (ht : exec x s = .next t) :
    About P t := exec_keeps (about_machine hw) about_returns hx.writes hs ht

/-- So does a wait that goes on. -/
theorem about_resume (hw : HandlerWrites P) {s t : State} {p : Place} {path : List Point} (hin : s.hostStep = .inside p path) (hp : p.sound = true)
    (hx : PlaceWrites (About P) p) (hs : About P s) (ht : step s = .next t) : About P t := by
  rw [step_hold hin (fun i hi => by rw [hi] at hp; cases hp)] at ht
  exact resume_keeps (about_machine hw) about_returns hx hp hs ht

end

/-! ### The Transfer State (10 R42) -/

/-- `S.Operation` is `o`. -/
abbrev OperationIs (o : Option Operation) : State → Prop := About (fun _ x => x.operation = o)

theorem operationIs_handler (o : Option Operation) : HandlerWrites (fun _ x => x.operation = o) where
  clear _ _ d h := by cases d <;> exact h
  complete _ _ h := h
  error _ _ _ h := h

theorem operationIs_clear (o : Option Operation) (d : Dir) : XferFree (OperationIs o) (clearInProgress d) := fun _ h => by cases d <;> exact h

theorem operationIs_mayWrite {x : Instr} (hx : ∀ d a b z n, x ≠ transferCall d a b z n) (o : Option Operation) : MayWrite (OperationIs o) x where
  rca _ _ _ h := h
  bind _ _ := ⟨fun _ _ h => h, fun _ h => h, fun _ i h => by cases i <;> exact h, fun _ i h => by cases i <;> exact h⟩
  init _ _ := ⟨⟨fun _ h => h, fun _ h => h, fun _ h => h, fun _ h => h, fun _ _ h => h⟩, ⟨fun _ _ _ h => h, fun _ _ _ h => h, fun _ _ h => h⟩,
    fun _ _ h => h, fun _ _ _ h => h⟩
  arm d a b z n h := absurd h (hx d a b z n)
  check d _ := ⟨operationIs_clear o d, fun _ h => h⟩
  info _ _ _ h := h
  ssr _ _ h := h
  status _ _ := ⟨fun _ _ h => h, fun _ _ h => h⟩
  power _ := ⟨fun _ h => h, fun _ h => h, fun _ h => h, fun _ h => h, fun _ _ h => h⟩
  identify _ := ⟨fun _ _ _ h => h, fun _ _ _ h => h, fun _ _ h => h⟩
  scr _ _ _ _ h := h
  irq i _ := about_irq (operationIs_handler o) i

/-- Settles O56: of the writes of the Transfer State, those of the handler and of the check calls keep `S.Operation`. -/
theorem operationWrittenOnlyByArming : Obligations.OperationWrittenOnlyByArming := by
  unfold Obligations.OperationWrittenOnlyByArming
  intro s t x hx ht
  exact about_exec (operationIs_handler s.xfer.operation) (operationIs_mayWrite hx s.xfer.operation) (rfl : OperationIs s.xfer.operation s) ht

end Sys2Proof.Machine

/-! SUPPORT. Which instructions write each session field (10 R31, R34, R38, R62), whatever `ENV` and `IRQ` do. -/

namespace Sys2Proof.Machine

/-! ### The writers of the session fields -/

/-- `SD_Init`, whose stages write every field but `S.SDStatus` and `S.Instance`. -/
def Instr.isInit (x : Instr) : Prop := ∃ d, x = .sdInit d

/-- `SD_Initialize_LL`. -/
def Instr.isBind (x : Instr) : Prop := ∃ sel, x = .sdInitializeLL sel

/-- The assertion is kept by the writes of the session that the instruction may make, one field each; a field it does not speak of keeps it. -/
structure SessionWrites (P : Session → Prop) (x : Instr) : Prop where
  cardType : x = .powerOn ∨ Instr.isInit x → ∀ n t, P n → P { n with cardType := some t } := by intros; assumption
  capArg : x = .powerOn ∨ Instr.isInit x → ∀ n c, P n → P { n with capArg := some c } := by intros; assumption
  powered : x = .powerOn ∨ Instr.isInit x → ∀ n, P n → P { n with powered := true } := by intros; assumption
  unpowered : Instr.isBind x → ∀ n, P n → P { n with powered := false } := by intros; assumption
  bound : Instr.isBind x → ∀ n i, P n → P { n with bound := some i } := by intros; assumption
  cid : x = .initializeCard ∨ Instr.isInit x → ∀ n k v, P n → P (storeCid k v n) := by intros; assumption
  csd : x = .initializeCard ∨ Instr.isInit x → ∀ n k v, P n → P (storeCsd k v n) := by intros; assumption
  rca : Instr.mayLatchRca x = true → ∀ n r, P n → P { n with rca := some r } := by intros; assumption
  cardInfo : x = .sdGetCardInfo ∨ x = .decodeCSD ∨ x = .decodeCID ∨ Instr.isInit x → ∀ n c, P n → P { n with cardInfo := c } := by
    intros; assumption
  scr : x = .findSCR ∨ (∃ m, x = .wideBusOperationConfig m) ∨ Instr.isInit x → ∀ n k v, P n → P { n with scr := n.scr.set k v } := by
    intros; assumption
  sdStatus : (∃ out, x = .sdGetCardStatus out) → ∀ n v, P n → P { n with sdStatus := some v } := by intros; assumption

/-- An assertion about the session only. -/
abbrev AboutSession (P : Session → Prop) : State → Prop := About (fun n _ => P n)

section
variable {P : Session → Prop}

theorem aboutSession_handler (P : Session → Prop) : HandlerWrites (fun n _ => P n) := ⟨fun _ _ _ h => h, fun _ _ h => h, fun _ _ _ h => h⟩

theorem aboutSession_setPeriph {s : State} (h : AboutSession P s) (i : Sdmmc) (p : Periph) : AboutSession P (s.setPeriph i p) := by
  cases i <;> exact h

theorem aboutSession_exhaust {s : State} (h : AboutSession P s) : AboutSession P s.exhaust := by
  unfold State.exhaust
  split
  · exact h
  · exact aboutSession_setPeriph h ..

theorem SessionWrites.powerOn {x : Instr} (h : SessionWrites P x) (hx : x = .powerOn ∨ Instr.isInit x) : PowerOnFree (AboutSession P) :=
  ⟨fun s => h.powered hx s.session, fun s => h.cardType hx s.session _, fun s => h.cardType hx s.session _, fun s => h.cardType hx s.session _,
    fun c s => h.capArg hx s.session c⟩

theorem SessionWrites.identify {x : Instr} (h : SessionWrites P x) (hx : x = .initializeCard ∨ Instr.isInit x) : IdentifyFree (AboutSession P) := by
  have hrca : Instr.mayLatchRca x = true := by
    obtain rfl | ⟨d, rfl⟩ := hx <;> rfl
  exact ⟨fun k v s => h.cid hx s.session k v, fun k v s => h.csd hx s.session k v, fun s r => h.rca hrca s.session r⟩

theorem SessionWrites.mayWrite {x : Instr} (h : SessionWrites P x) : MayWrite (AboutSession P) x where
  rca hx s r := h.rca hx s.session r
  bind sel hx := ⟨fun i s => h.bound ⟨sel, hx⟩ s.session i, fun s => h.unpowered ⟨sel, hx⟩ s.session, fun _ _ hs => aboutSession_setPeriph hs _ _,
    fun _ _ hs => aboutSession_setPeriph hs _ _⟩
  init d hx := ⟨h.powerOn (.inr ⟨d, hx⟩), h.identify (.inr ⟨d, hx⟩), fun s c => h.cardInfo (.inr (.inr (.inr ⟨d, hx⟩))) s.session c,
    fun k v s => h.scr (.inr (.inr ⟨d, hx⟩)) s.session k v⟩
  arm _ _ _ _ _ _ := ⟨fun _ h => h, fun _ h => h, fun _ _ h => h, fun _ _ h => h, fun _ _ h => h, fun _ _ _ h => h, fun _ _ h => h,
    fun _ _ h => h, fun _ h => aboutSession_exhaust h⟩
  check _ _ := ⟨fun _ h => h, fun _ h => h⟩
  info hx s c := h.cardInfo (hx.imp_right (Or.imp_right .inl)) s.session c
  ssr _ _ h := h
  status out hx := ⟨fun v s => h.sdStatus ⟨out, hx⟩ s.session v, fun _ _ h => h⟩
  power hx := h.powerOn (.inl hx)
  identify hx := h.identify (.inl hx)
  scr hx k v s := h.scr (hx.imp_right .inl) s.session k v
  irq i _ := about_irq (aboutSession_handler P) i

/-- An instruction keeps what its writes of the session keep. -/
theorem SessionWrites.exec {x : Instr} (h : SessionWrites P x) {s t : State} (hs : P s.session) (ht : Machine.exec x s = .next t) : P t.session :=
  about_exec (aboutSession_handler P) h.mayWrite hs ht

end

/-! ### The RCA (40 R184) -/

/-- The RCA is `r`. -/
def RcaIs (r : Option (BitVec 16)) (n : Session) : Prop := n.rca = r

theorem rcaIs_writes {x : Instr} (hx : Instr.mayLatchRca x = false) (r : Option (BitVec 16)) : SessionWrites (RcaIs r) x where
  rca h := absurd h (by simp [hx])

/-- The places whose waits lead to no `initializeCard` keep the RCA. -/
theorem rcaIs_place {p : Place} (hp : ∀ d, p ≠ .delay (.sdInit d)) (r : Option (BitVec 16)) : PlaceWrites (AboutSession (RcaIs r)) p := by
  cases p with
  | delay caller =>
    cases caller with
    | host => exact ⟨fun _ h => h, fun _ h => h, fun _ h => h, fun _ h => h, fun _ _ h => h⟩
    | sdInit d => exact absurd rfl (hp d)
  | scrLoop => exact fun _ _ _ h => h
  | ssrLoop caller =>
    cases caller with
    | host => exact fun _ _ h => h
    | getCardStatus out => exact ⟨fun _ _ h => h, fun _ _ h => h, fun _ _ h => h⟩
  | _ => trivial

/-- Either the operation has given `Ok`, or the RCA is `r`. -/
abbrev OkOrRca (r : Option (BitVec 16)) (e : Err) : State → Prop := AboutSession (fun n => e = .ok ∨ RcaIs r n)

section
variable {r : Option (BitVec 16)}

/-- An R6 word that gives an error leaves the RCA (40 R180). -/
theorem decodeR6_okOrRca {E : Stop → State → Prop} {g : Agent} {bt : Act Unit} {cs : List Point} (hb : Steps E (AboutSession (RcaIs r)) g bt)
    (w : Word) : Spec E (AboutSession (RcaIs r)) (decodeR6 ⟨g, bt, cs⟩ w) (OkOrRca r) := by
  refine hb.passed (fun _ => Spec.ite (fun _ s hs => ?_) (fun _ => (hb.pass _ _).bind (fun _ => Spec.pure (fun _ h => .inr h))))
  rw [run_sessionWrite_bind, run_pass_bind]
  exact .inl rfl

/-- The boundaries of a command that writes nothing of the session. -/
theorem session_boundary (P : Session → Prop) : Steps NoHold (AboutSession P) .host hostFrame.between :=
  about_boundary (aboutSession_handler P) (fun _ _ => trivial) (fun _ _ => trivial)

theorem session_regs (P : Session → Prop) : Regs NoHold (AboutSession P) AnyWord := about_regs (fun _ => trivial)

theorem session_read (P : Session → Prop) (cs : List Point) (pt : Point) (reg : Reg) :
    Spec NoHold (AboutSession P) (regRead (frameOf .host (takeIrq irqHandler) cs) pt reg) (fun _ => AboutSession P) :=
  regRead_keeps (session_regs P) (session_boundary P) reg

theorem session_write (P : Session → Prop) (pt : Point) (reg : Reg) (v : Word) :
    Spec NoHold (AboutSession P) (regWrite hostFrame pt reg v) (fun _ => AboutSession P) :=
  regWrite_keeps (session_regs P) (session_boundary P) trivial

theorem classify_okOrRca {cs : List Point} (c : Word) :
    Spec NoHold (AboutSession (RcaIs r)) (classify (frameOf .host (takeIrq irqHandler) cs) c 6) (OkOrRca r) := by
  have hb := session_boundary (RcaIs r)
  refine (session_read _ _ _ .sta).seq (fun sta => hb.passed (fun _ => ?_))
  cases classifyFlags sta 6 with
  | some e => exact Spec.pure (fun _ h => .inr h)
  | none =>
    refine Spec.seq (Spec.pure (fun _ h => h)) (fun _ => (session_read _ _ _ .respcmdr).seq (fun rc => Spec.ite (fun _ => ?_) (fun _ => ?_)))
    · exact (session_read _ _ _ .resp1).seq (fun w => hb.passed (fun _ => Spec.ite (fun h => absurd h (by decide))
        (fun _ => hb.passed (fun _ => decodeR6_okOrRca hb w))))
    · exact (hb.pass _ _).bind (fun _ => Spec.pure (fun _ h => .inr h))

theorem transmitCommand_okOrRca (c a : Word) : Spec NoHold (AboutSession (RcaIs r)) (transmitCommand hostFrame c a 6) (OkOrRca r) := by
  have hb := session_boundary (RcaIs r)
  refine hb.passed (fun _ => Spec.getState_seq (fun s _ => ?_))
  refine (session_write _ _ _ _).seq (fun _ => (session_write _ _ _ _).seq (fun _ => (session_read _ _ _ .cmdr).seq (fun _ =>
    (session_write _ _ _ _).seq (fun _ => ?_))))
  refine Spec.bind (R := fun _ => AboutSession (RcaIs r)) (Spec.update (fun _ h => h)) (fun _ => hb.passed (fun _ => ?_))
  refine (pollStatus_keeps (session_regs _) hb _ _).seq (fun hit => ?_)
  have hresult : Spec NoHold (AboutSession (RcaIs r)) (commandResult hostFrame hit c 6) (OkOrRca r) :=
    hb.passed (fun _ => Spec.ite (fun _ => classify_okOrRca c) (fun _ => (hb.pass _ _).bind (fun _ => Spec.pure (fun _ h => .inr h))))
  refine hresult.bind (fun e => (session_write _ _ _ _).seq (fun _ => ?_))
  refine Spec.bind (R := fun _ => OkOrRca r e) (Spec.update (fun _ h => h)) (fun _ => ?_)
  exact ((session_boundary _).pass _ _).bind (fun _ => Spec.pure (fun _ h => h))

/-- A call of an operation that may latch the RCA leaves it where it does not return `Ok`. -/
theorem rca_of_okOrRca {x : Instr} {op : Act Err} (h : Spec NoHold (AboutSession (RcaIs r)) op (OkOrRca r)) {s t : State}
    (hs : s.session.rca = r) (ht : finish x .err op s = .next t) (hne : t.result ≠ .err .ok) : t.session.rca = r := by
  have hend := conclude_spec (Q := fun t => t.result = .err .ok ∨ t.session.rca = r) (r := .err)
    (h.post (fun e t he => he.imp_left (congrArg Result.err))) (fun _ _ hh => hh.elim)
    (show AboutSession (RcaIs r) (s.enter x) from hs) ht
  exact hend.resolve_left hne

/-- A check at the call, before its operation. -/
theorem refused_or {α : Type} {E : Stop → State → Prop} {I : State → Prop} {m : Act α} {Q : α → State → Prop} {b : Bool} {e : Refusal}
    (he : ∀ s, E (.refused e) s) (h : Spec E I m Q) : Spec E I (refuseIf b e >>= fun _ => m) Q :=
  Spec.seq (Spec.refuseIf (fun _ s _ => he s) (fun _ _ h => h)) (fun _ => h)

/-- The instructions with a type 6 response. -/
theorem failing_keeps_rca {x : Instr} {s t : State}
    (hx : x = .cmd3 ∨ (∃ c a, x = .transmitCommand c a 6) ∨ (∃ c, x = .classify c 6) ∨ (∃ r, x = .decodeR6 r))
    (ht : exec x s = .next t) (hne : t.result ≠ .err .ok) : t.session.rca = s.session.rca := by
  have h6 : (6 : Word).toInt = 6 := by decide
  obtain rfl | ⟨c, a, rfl⟩ | ⟨c, rfl⟩ | ⟨w, rfl⟩ := hx
  · exact rca_of_okOrRca (x := .cmd3) (op := sendCommand 3 (pure 0) 6) (transmitCommand_okOrRca 3 0) rfl ht hne
  · refine rca_of_okOrRca (x := .transmitCommand c a 6) ?_ rfl ht hne
    rw [h6]
    exact refused_or (fun _ => trivial) (refused_or (fun _ => trivial) (transmitCommand_okOrRca c a))
  · refine rca_of_okOrRca (x := .classify c 6) ?_ rfl ht hne
    rw [h6]
    exact refused_or (fun _ => trivial) (classify_okOrRca c)
  · exact rca_of_okOrRca (x := .decodeR6 w) (decodeR6_okOrRca (session_boundary _) w) rfl ht hne

end

/-- Settles O28: an instruction without a type 6 response makes no write of the RCA, and one with it makes it with the result `Ok` only. -/
theorem onlyRelativeAddressWritesRca : Obligations.OnlyRelativeAddressWritesRca := by
  unfold Obligations.OnlyRelativeAddressWritesRca
  refine ⟨fun x s t hx ht => (rcaIs_writes hx s.session.rca).exec rfl ht, fun x s t hx ht hne => failing_keeps_rca hx ht hne,
    fun s t hidle hsound hp ht => ?_⟩
  cases hin : s.hostStep with
  | idle => exact absurd hin hidle
  | inside p path =>
    rw [hin] at hsound
    have hplace : PlaceWrites (AboutSession (RcaIs s.session.rca)) p := rcaIs_place (fun d hd => hp d path (by rw [hin, hd])) _
    exact about_resume (aboutSession_handler _) hin (Bool.and_eq_true_iff.1 hsound).1 hplace (rfl : AboutSession (RcaIs s.session.rca) s) ht

end Sys2Proof.Machine

/-! SUPPORT. The session fields that are written stay written (10 R33, 70 R403), through an initialisation too. -/

namespace Sys2Proof.Machine

/-! ### Writes that keep written fields -/

theorem RegCells.keepsWritten.set {old new : RegCells} (h : old.keepsWritten new) (k : Fin 4) (v : Word) : old.keepsWritten (new.set k v) := by
  obtain ⟨h0, h1, h2, h3⟩ := h
  match k with
  | 0 => exact ⟨fun _ => rfl, h1, h2, h3⟩
  | 1 => exact ⟨h0, fun _ => rfl, h2, h3⟩
  | 2 => exact ⟨h0, h1, fun _ => rfl, h3⟩
  | 3 => exact ⟨h0, h1, h2, fun _ => rfl⟩

theorem RegCells.keepsWritten_refl (c : RegCells) : c.keepsWritten c := ⟨id, id, id, id⟩

theorem CardInfo.keepsWritten_refl (c : CardInfo) : c.keepsWritten c := ⟨id, id, id, id, id, id, id, id, id, id⟩

theorem Session.keepsWritten_refl (n : Session) : n.keepsWritten n :=
  ⟨id, id, RegCells.keepsWritten_refl _, RegCells.keepsWritten_refl _, CardInfo.keepsWritten_refl _, id, id, id, id, id⟩

section
variable {old n : Session}

theorem Session.keepsWritten.setCardType (h : old.keepsWritten n) (t : CardType) : old.keepsWritten { n with cardType := some t } := by
  obtain ⟨-, h⟩ := h
  exact ⟨fun _ => rfl, h⟩

theorem Session.keepsWritten.setRca (h : old.keepsWritten n) (r : BitVec 16) : old.keepsWritten { n with rca := some r } := by
  obtain ⟨ht, -, h⟩ := h
  exact ⟨ht, fun _ => rfl, h⟩

theorem Session.keepsWritten.storeCid (h : old.keepsWritten n) (k : Fin 4) (v : Word) : old.keepsWritten (Machine.storeCid k v n) := by
  obtain ⟨ht, hr, hcid, h⟩ := h
  exact ⟨ht, hr, hcid.set k v, h⟩

theorem Session.keepsWritten.storeCsd (h : old.keepsWritten n) (k : Fin 4) (v : Word) : old.keepsWritten (Machine.storeCsd k v n) := by
  obtain ⟨ht, hr, hcid, hcsd, h⟩ := h
  exact ⟨ht, hr, hcid, hcsd.set k v, h⟩

theorem Session.keepsWritten.setCapArg (h : old.keepsWritten n) (c : Word) : old.keepsWritten { n with capArg := some c } := by
  obtain ⟨ht, hr, hcid, hcsd, hinfo, -, h⟩ := h
  exact ⟨ht, hr, hcid, hcsd, hinfo, fun _ => rfl, h⟩

theorem Session.keepsWritten.setScr (h : old.keepsWritten n) (k : Fin 2) (v : Word) : old.keepsWritten { n with scr := n.scr.set k v } := by
  obtain ⟨ht, hr, hcid, hcsd, hinfo, hcap, h0, h1, h⟩ := h
  match k with
  | 0 => exact ⟨ht, hr, hcid, hcsd, hinfo, hcap, fun _ => rfl, h1, h⟩
  | 1 => exact ⟨ht, hr, hcid, hcsd, hinfo, hcap, h0, fun _ => rfl, h⟩

theorem Session.keepsWritten.setSdStatus (h : old.keepsWritten n) (v : SdStatus) : old.keepsWritten { n with sdStatus := some v } := by
  obtain ⟨ht, hr, hcid, hcsd, hinfo, hcap, h0, h1, -, hb⟩ := h
  exact ⟨ht, hr, hcid, hcsd, hinfo, hcap, h0, h1, fun _ => rfl, hb⟩

theorem Session.keepsWritten.setBound (h : old.keepsWritten n) (i : Sdmmc) : old.keepsWritten { n with bound := some i } := by
  obtain ⟨ht, hr, hcid, hcsd, hinfo, hcap, h0, h1, hs, -⟩ := h
  exact ⟨ht, hr, hcid, hcsd, hinfo, hcap, h0, h1, hs, fun _ => rfl⟩

theorem Session.keepsWritten.setCardInfo (h : old.keepsWritten n) {c : CardInfo} (hc : n.cardInfo.keepsWritten c) :
    old.keepsWritten { n with cardInfo := c } := by
  obtain ⟨ht, hr, hcid, hcsd, hinfo, h⟩ := h
  obtain ⟨h1, h2, h3, h4, h5, h6, h7, h8, h9, h10⟩ := hinfo
  obtain ⟨c1, c2, c3, c4, c5, c6, c7, c8, c9, c10⟩ := hc
  exact ⟨ht, hr, hcid, hcsd, ⟨c1 ∘ h1, c2 ∘ h2, c3 ∘ h3, c4 ∘ h4, c5 ∘ h5, c6 ∘ h6, c7 ∘ h7, c8 ∘ h8, c9 ∘ h9, c10 ∘ h10⟩, h⟩

end

/-! ### Writes of `S.CardInfo` by a decode of a recognised class (42 R241) -/

/-- The class is one that `decodeCSD` decodes (42 R241). -/
def Recognised (n : Session) : Prop := ∃ t, n.cardType = some t ∧ (t = .standardV1_1 ∨ t = .standardV2_0 ∨ t = .highCapacity)

/-- The fields of `old` stay written. -/
abbrev Kept (old : Session) : State → Prop := AboutSession (fun n => old.keepsWritten n)

/-- The fields of `old` stay written, and the class is recognised. -/
abbrev KeptRecognised (old : Session) : State → Prop := AboutSession (fun n => old.keepsWritten n ∧ Recognised n)

/-- A write of `S.CardInfo` that keeps its written fields. -/
def KeepsInfo (f : CardInfo → CardInfo) : Prop := ∀ c : CardInfo, c.keepsWritten (f c)

theorem keepsInfo_cardType (t : CardType) : KeepsInfo (fun c => { c with cardType := some t }) :=
  fun _ => ⟨fun _ => rfl, id, id, id, id, id, id, id, id, id⟩

theorem keepsInfo_rca (r : BitVec 16) : KeepsInfo (fun c => { c with rca := some r }) := fun _ => ⟨id, fun _ => rfl, id, id, id, id, id, id, id, id⟩

theorem keepsInfo_csdCommon (x : CsdCommon) : KeepsInfo (fun c => { c with csdCommon := some x }) :=
  fun _ => ⟨id, id, fun _ => rfl, id, id, id, id, id, id, id⟩

theorem keepsInfo_csdTail (x : CsdTail) : KeepsInfo (fun c => { c with csdTail := some x }) :=
  fun _ => ⟨id, id, id, id, id, id, fun _ => rfl, id, id, id⟩

theorem keepsInfo_cid (x : Cid) : KeepsInfo (fun c => { c with cid := some x }) := fun _ => ⟨id, id, id, id, id, id, id, fun _ => rfl, id, id⟩

theorem keepsInfo_withLayout (l : CsdLayout) : KeepsInfo (fun c => c.withLayout l) := fun c => by
  cases l with
  | v1 f => exact ⟨id, id, id, fun _ => rfl, fun _ => rfl, id, id, id, id, id⟩
  | v2 f => exact ⟨id, id, id, fun _ => rfl, id, fun _ => rfl, id, id, id, id⟩

theorem keepsInfo_withSizes (x : Reg128) (l : CsdLayout) : KeepsInfo (fun c => c.withSizes x l) :=
  fun _ => ⟨id, id, id, id, id, id, id, id, fun _ => rfl, fun _ => rfl⟩

section
variable {old : Session} {cs : List Point} {pt : Point}

/-- The operations of `HOST` under either assertion: a wait leaves the fields written. -/
theorem keptRecognised_host : HostKeeps (Partial (Kept old)) (KeptRecognised old) AnyWord .host hostFrame.between where
  regs := about_regs (fun _ => trivial)
  words := anyWord_words
  appCmd _ _ h := h
  boundary := about_boundary (aboutSession_handler _) (fun _ _ => trivial) (fun _ _ => trivial)
  stops := ⟨fun _ _ _ => trivial, fun _ _ _ => trivial, fun _ _ hp h => ⟨hp, h.1⟩⟩

theorem kept_host : HostKeeps (Partial (Kept old)) (Kept old) AnyWord .host hostFrame.between := (about_machine (aboutSession_handler _)).host

theorem cardInfoWrite_kept {f : CardInfo → CardInfo} (hf : KeepsInfo f) : Spec (Partial (Kept old)) (KeptRecognised old)
    (cardInfoWrite (frameOf .host (takeIrq irqHandler) cs) pt f) (fun _ => KeptRecognised old) :=
  sessionWrite_keeps keptRecognised_host.boundary (fun _ h => ⟨h.1.setCardInfo (hf _), h.2⟩)

theorem writeCsd_kept (x : Reg128) (l : CsdLayout) : Spec (Partial (Kept old)) (KeptRecognised old)
    (writeCsd (frameOf .host (takeIrq irqHandler) cs) x l) (fun _ => KeptRecognised old) :=
  (cardInfoWrite_kept (keepsInfo_csdCommon _)).seq (fun _ => (cardInfoWrite_kept (keepsInfo_withLayout l)).seq (fun _ =>
    (cardInfoWrite_kept (keepsInfo_csdTail _)).seq (fun _ => (cardInfoWrite_kept (keepsInfo_withSizes x l)).seq (fun _ =>
      keptRecognised_host.boundary.pass _ _))))

theorem keptRecognised_read {α : Type} (f : State → Option α) :
    Spec (Partial (Kept old)) (KeptRecognised old) (readOr f) (fun _ => KeptRecognised old) := readOr_keeps (fun _ _ _ => trivial)

/-- The class read is recognised. -/
theorem readCardType_recognised : Spec (Partial (Kept old)) (KeptRecognised old) readCardType
    (fun t s => KeptRecognised old s ∧ (t = .standardV1_1 ∨ t = .standardV2_0 ∨ t = .highCapacity)) := by
  refine Spec.readOr (fun _ _ _ => trivial) (fun s t h ht => ⟨h, ?_⟩)
  obtain ⟨t', ht', hrec⟩ := h.2
  rwa [Option.some.inj (ht.symm.trans ht')]

/-- In a recognised class `decodeCSD` gives `Ok`, or stops at an unwritten CSD (42 R241, R247). -/
theorem decodeCSD_kept : Spec (Partial (Kept old)) (KeptRecognised old) (decodeCSD (frameOf .host (takeIrq irqHandler) cs))
    (fun e t => KeptRecognised old t ∧ e = .ok) := by
  refine readCardType_recognised.bind (fun t s ⟨hs, hrec⟩ => ?_)
  rw [run_pass_bind, if_pos hrec]
  refine (keptRecognised_read _).seq (fun x => ?_) _ (keptRecognised_host.boundary.moved s _ hs)
  obtain ⟨-, hl⟩ | ⟨-, hl⟩ := layoutOf_recognised hrec x <;> rw [hl] <;>
    exact (writeCsd_kept x _).bind (fun _ => Spec.pure (fun _ h => ⟨h, rfl⟩))

/-- So does `SD_GetCardInfo`, which then takes no field back (42 R240). -/
theorem sdGetCardInfo_kept : Spec (Partial (Kept old)) (KeptRecognised old) (sdGetCardInfo (frameOf .host (takeIrq irqHandler) cs))
    (fun _ => KeptRecognised old) := by
  have hb := (keptRecognised_host (old := old)).boundary
  refine (keptRecognised_read _).seq (fun t => (cardInfoWrite_kept (keepsInfo_cardType t)).seq (fun _ =>
    (keptRecognised_read _).seq (fun rca => (cardInfoWrite_kept (keepsInfo_rca rca)).seq (fun _ => decodeCSD_kept.known ?_))))
  rw [if_pos rfl]
  refine Spec.seq ((keptRecognised_read _).seq (fun x => ?_)) (fun _ => hb.returned)
  exact (cardInfoWrite_kept (keepsInfo_cid _)).seq (fun _ => hb.returned)

/-! ### SD_Init (41 R221) -/

theorem keptRecognised_identify : IdentifyFree (KeptRecognised old) where
  cid k v _ h := ⟨h.1.storeCid k v, h.2⟩
  csd k v _ h := ⟨h.1.storeCsd k v, h.2⟩
  rca _ r h := ⟨h.1.setRca r, h.2⟩

theorem keptRecognised_powerOn : PowerOnFree (KeptRecognised old) where
  powered _ h := h
  first _ h := ⟨h.1.setCardType _, _, rfl, .inl rfl⟩
  probed _ h := ⟨h.1.setCardType _, _, rfl, .inr (.inl rfl)⟩
  highCapacity _ h := ⟨h.1.setCardType _, _, rfl, .inr (.inr rfl)⟩
  capArg c _ h := ⟨h.1.setCapArg c, h.2⟩

/-- `powerOn` from its `Delay` on leaves a recognised class. -/
theorem powerOnSettled_kept {caller : PowerCaller} (hc : (Place.delay caller).sound = true) : Spec (Partial (Kept old)) (Kept old)
    (powerOnSettled (frameOf .host (takeIrq irqHandler) cs) caller) (fun _ => KeptRecognised old) := by
  have hh : HostKeeps (Partial (Kept old)) (KeptRecognised old) AnyWord .host hostFrame.between := keptRecognised_host
  have hp : PowerOnFree (KeptRecognised old) := keptRecognised_powerOn
  refine Spec.getState_seq (fun _ _ => (delay_keeps kept_host hc _).seq (fun _ => ?_))
  refine Spec.bind (R := fun _ => KeptRecognised old)
    ((kept_host.boundary.goto _).seq (fun _ => Spec.update (fun _ h => ⟨h.setCardType _, _, rfl, .inl rfl⟩))) (fun _ => ?_)
  exact (sessionFree_keeps hh.boundary (hp.capArg _)).seq (fun _ => Spec.thenOk (command_keeps hh 0 0 (by decide) (by decide))
    ((interfaceProbe_keeps hh hp).seq (fun _ => Spec.thenOk (command_keeps hh 55 0 (by decide) (by decide))
      (hh.boundary.passed (fun _ => voltageTrials_keeps hh hp _)))))

theorem sdInitAfterPower_kept (d : Word) (e : Err) : Spec (Partial (Kept old)) (KeptRecognised old)
    (sdInitAfterPower (frameOf .host (takeIrq irqHandler) cs) d e) (fun _ => KeptRecognised old) := by
  have hh : HostKeeps (Partial (Kept old)) (KeptRecognised old) AnyWord .host hostFrame.between := keptRecognised_host
  have hscr : ScrFree (KeptRecognised old) := fun k v _ h => ⟨h.1.setScr k v, h.2⟩
  refine Spec.getState_seq (fun _ _ => (ifOk_keeps hh.boundary (initializeCard_keeps hh keptRecognised_identify)).seq (fun _ =>
    (ifOk_keeps hh.boundary sdGetCardInfo_kept).seq (fun _ => (ifOk_keeps hh.boundary ?_).seq (fun _ =>
      (ifOk_keeps hh.boundary ?_).seq (fun _ => ifOk_keeps hh.boundary (wideBus_keeps hh hscr _ _))))))
  · exact (rcaArg_keeps hh).seq (fun a => command_keeps hh 7 a (by decide) (by decide))
  · exact (regRead_keeps hh.regs hh.boundary .clkcr).seq (fun c => (regWrite_keeps hh.regs hh.boundary trivial).seq (fun _ =>
      Spec.pure (fun _ h => h)))

/-- `SD_Init` from its `Delay` on: its stages after `powerOn` meet a recognised class. -/
theorem initSettled_kept {d : Word} (hd : clockDividerInRange d = true) (cs' : List Point) : Spec (Partial (Kept old)) (Kept old) (do
    let e ← powerOnSettled (frameOf .host (takeIrq irqHandler) cs) (.sdInit d)
    let e ← sdInitAfterPower (frameOf .host (takeIrq irqHandler) cs') d e
    sdInitResult (frameOf .host (takeIrq irqHandler) cs') e) (fun _ => Kept old) :=
  (powerOnSettled_kept (delay_sound hd)).bind (fun e => (sdInitAfterPower_kept d e).bind (fun e' =>
    ((sdInitResult_keeps keptRecognised_host.boundary e').post (fun _ _ h => h.1))))

theorem powerOn_kept {d : Word} (hd : clockDividerInRange d = true) : Spec (Partial (Kept old)) (Kept old)
    (powerOn (frameOf .host (takeIrq irqHandler) cs) (.sdInit d)) (fun _ => KeptRecognised old) :=
  (regSet_keeps kept_host.regs kept_host.boundary (fun _ _ => trivial)).seq (fun _ =>
    (sessionFree_keeps kept_host.boundary (f := fun n => { n with powered := true }) (fun _ h => h)).seq (fun _ => powerOnSettled_kept (delay_sound hd)))

theorem sdInit_kept (d : Word) : Spec (Partial (Kept old)) (Kept old) (sdInit hostFrame d) (fun _ => Kept old) := by
  have hh : HostKeeps (Partial (Kept old)) (Kept old) AnyWord .host hostFrame.between := kept_host
  have hstages : clockDividerInRange d = true → Spec (Partial (Kept old)) (Kept old) (sdInitStages hostFrame d) (fun _ => KeptRecognised old) := fun hd => by
    refine Spec.seq (m := slowClock hostFrame) (Spec.getState_seq (fun _ _ => ?_)) (fun _ => (powerOn_kept hd).bind (fun e => sdInitAfterPower_kept d e))
    exact (regWrite_keeps hh.regs hh.boundary trivial).seq (fun _ => regSet_keeps hh.regs hh.boundary (fun _ _ => trivial))
  refine Spec.bind (R := fun _ s => Kept old s ∧ clockDividerInRange d = true)
    (Spec.refuseIf (fun _ _ _ => trivial) (fun hc _ h => ⟨h, by simpa using hc⟩)) (fun _ s hs => ?_)
  refine (refuseOutstanding_keeps hh.boundary hh.stops.refused).seq (fun _ => (sdIsDetected_keeps hh.boundary).seq (fun _ => Spec.ite
    (fun _ => ?_) (fun _ => hh.boundary.returned))) s hs.1
  exact (hstages hs.2).bind (fun e => (sdInitResult_keeps keptRecognised_host.boundary e).post (fun _ _ h => h.1))

end

end Sys2Proof.Machine

/-! SUPPORT. The writers of each session field, as one statement. -/

namespace Sys2Proof.Machine

section
variable {old : Session}

theorem kept_writes {x : Instr} (hx : Instr.isBind x) : SessionWrites (fun n => old.keepsWritten n) x := by
  obtain ⟨sel, rfl⟩ := hx
  exact { cardType := fun _ _ t h => h.setCardType t, capArg := fun _ _ c h => h.setCapArg c, bound := fun _ _ i h => h.setBound i
          cid := fun _ _ k v h => h.storeCid k v, csd := fun _ _ k v h => h.storeCsd k v, rca := fun _ _ r h => h.setRca r
          cardInfo := fun h => by obtain h | h | h | ⟨d, h⟩ := h <;> cases h
          scr := fun _ _ k v h => h.setScr k v, sdStatus := fun _ _ v h => h.setSdStatus v }

/-- A wait outside `SD_Init` goes on without taking a field back. -/
theorem kept_place {p : Place} (hp : ∀ d, p ≠ .delay (.sdInit d)) : PlaceWrites (Kept old) p := by
  cases p with
  | delay caller =>
    cases caller with
    | host => exact ⟨fun _ h => h, fun _ h => h.setCardType _, fun _ h => h.setCardType _, fun _ h => h.setCardType _, fun _ _ h => h.setCapArg _⟩
    | sdInit d => exact absurd rfl (hp d)
  | scrLoop => exact fun _ _ _ h => h.setScr _ _
  | ssrLoop caller =>
    cases caller with
    | host => exact fun _ _ h => h
    | getCardStatus out => exact ⟨fun _ _ h => h, fun _ _ h => h.setSdStatus _, fun _ _ h => h⟩
  | _ => trivial

/-- What is kept by a call's operation is kept by the call. -/
theorem kept_conclude {α : Type} {r : α → Result} {op : Act α} (h : Spec (Partial (Kept old)) (Kept old) op (fun _ => Kept old)) {s t : State}
    (hs : old.keepsWritten s.session) (ht : conclude r op s = .next t) : old.keepsWritten t.session :=
  conclude_keeps (Q := Kept old) about_returns h hs ht

/-- A held operation goes on without taking a field back (70 R403). -/
theorem hold_keepsWritten {s t : State} {p : Place} {path : List Point} (hin : s.hostStep = .inside p path) (hp : p.sound = true)
    (ht : step s = .next t) : s.session.keepsWritten t.session := by
  by_cases hinit : ∃ d, p = .delay (.sdInit d)
  · obtain ⟨d, rfl⟩ := hinit
    have hd : clockDividerInRange d = true := by simpa [Place.sound, clockDividerInRange] using hp
    rw [step_hold hin nofun] at ht
    exact kept_conclude (initSettled_kept hd []) s.session.keepsWritten_refl ht
  · exact about_resume (P := fun n _ => s.session.keepsWritten n) (aboutSession_handler _) hin hp (kept_place (fun d hd => hinit ⟨d, hd⟩))
      s.session.keepsWritten_refl ht

end

/-- Settles O57: an initialisation takes no field back, since its decode meets a recognised class; every other clause is one assertion about one field
that the instruction's writes keep. -/
theorem sessionFieldWriters : Obligations.SessionFieldWriters := by
  unfold Obligations.SessionFieldWriters
  refine ⟨fun s t hidle hsound ht => ?_, fun s t x ht => ⟨fun h => ?_, fun hpower hinit => ?_, fun hident hinit => ?_, fun hscr hwide hinit => ?_,
    fun hstatus => ?_, fun hget hcsd hcid hinit => ?_, fun hbind => ?_, fun hrca => ?_, fun hpower hinit hbind => ?_, fun ⟨i, hi⟩ => ?_⟩⟩
  · cases hin : s.hostStep with
    | idle => exact absurd hin hidle
    | inside p path =>
      rw [hin] at hsound
      exact hold_keepsWritten hin (Bool.and_eq_true_iff.1 hsound).1 ht
  · rcases h with ⟨d, rfl⟩ | hbind
    · exact kept_conclude (sdInit_kept d) (s := s.enter _) s.session.keepsWritten_refl ht
    · exact (kept_writes hbind).exec (P := fun n => s.session.keepsWritten n) s.session.keepsWritten_refl ht
  · have hno : ¬(x = .powerOn ∨ Instr.isInit x) := fun h => h.elim hpower (fun ⟨d, hd⟩ => hinit d hd)
    exact SessionWrites.exec (P := fun n => n.cardType = s.session.cardType ∧ n.capArg = s.session.capArg)
      { cardType := fun h => absurd h hno, capArg := fun h => absurd h hno } ⟨rfl, rfl⟩ ht
  · have hno : ¬(x = .initializeCard ∨ Instr.isInit x) := fun h => h.elim hident (fun ⟨d, hd⟩ => hinit d hd)
    exact SessionWrites.exec (P := fun n => n.cid = s.session.cid ∧ n.csd = s.session.csd)
      { cid := fun h => absurd h hno, csd := fun h => absurd h hno } ⟨rfl, rfl⟩ ht
  · have hno : ¬(x = .findSCR ∨ (∃ m, x = .wideBusOperationConfig m) ∨ Instr.isInit x) := fun h =>
      h.elim hscr (fun h => h.elim (fun ⟨m, hm⟩ => hwide m hm) (fun ⟨d, hd⟩ => hinit d hd))
    exact SessionWrites.exec (P := fun n => n.scr = s.session.scr) { scr := fun h => absurd h hno } rfl ht
  · exact SessionWrites.exec (P := fun n => n.sdStatus = s.session.sdStatus) { sdStatus := fun ⟨out, h⟩ => absurd h (hstatus out) } rfl ht
  · have hno : ¬(x = .sdGetCardInfo ∨ x = .decodeCSD ∨ x = .decodeCID ∨ Instr.isInit x) := fun h =>
      h.elim hget (fun h => h.elim hcsd (fun h => h.elim hcid (fun ⟨d, hd⟩ => hinit d hd)))
    exact SessionWrites.exec (P := fun n => n.cardInfo = s.session.cardInfo) { cardInfo := fun h => absurd h hno } rfl ht
  · exact SessionWrites.exec (P := fun n => n.bound = s.session.bound) { bound := fun ⟨sel, h⟩ => absurd h (hbind sel) } rfl ht
  · exact (rcaIs_writes hrca s.session.rca).exec rfl ht
  · have hno : ¬(x = .powerOn ∨ Instr.isInit x) := fun h => h.elim hpower (fun ⟨d, hd⟩ => hinit d hd)
    exact SessionWrites.exec (P := fun n => n.powered = s.session.powered)
      { powered := fun h => absurd h hno, unpowered := fun ⟨sel, h⟩ => absurd h (hbind sel) } rfl ht
  · exact (handlerDisablesItsSources.1 s t i (hi ▸ ht)).2.1

end Sys2Proof.Machine

/-! SUPPORT. The controller power stays on (60 R378, 70 R404), whatever `ENV` and `IRQ` do. -/

namespace Sys2Proof.Machine

/-! ### `PWRCTRL` of one controller -/

/-- The two bits of `PWRCTRL` are set (10 R52). -/
def PowerBits (v : Word) : Prop := v &&& 3 = 3

theorem PowerBits.or {v : Word} (h : PowerBits v) (m : Word) : PowerBits (v ||| m) := by
  rw [PowerBits, BitVec.and_or_distrib_right, h]
  ext n hn
  simp only [BitVec.getElem_or, BitVec.getElem_and]
  cases (3 : Word)[n] <;> simp

/-- `ENV` writes no bit of `POWER` but reserved ones (93 U23). -/
theorem Periph.EnvStep.powerBits {p q : Periph} (h : p.EnvStep q) (hp : PowerBits p.power) : PowerBits q.power := by
  cases h with
  | dynFlags flags =>
    obtain ⟨sta, hk⟩ := Periph.keepRx_eq { p with sta := (p.sta &&& ~~~dynamicFlags) ||| (flags &&& dynamicFlags) }
    rw [hk]
    exact hp
  | respond r v => cases r <;> exact hp
  | reservedBits r v =>
    cases r with
    | power =>
      have hmask : ~~~reservedMask .power &&& 3 = 3 ∧ reservedMask .power &&& 3 = 0 := by decide
      show (p.power &&& ~~~reservedMask .power ||| v &&& reservedMask .power) &&& 3 = 3
      rw [BitVec.and_or_distrib_right, BitVec.and_assoc, BitVec.and_assoc, hmask.1, hmask.2, hp]
      simp
    | _ => exact hp
  | _ => exact hp

/-- The words that leave the power on. -/
def PowerWord (r : Reg) (v : Word) : Prop := r = .power → PowerBits v

theorem powerWord_other {r : Reg} (h : r ≠ .power) (v : Word) : PowerWord r v := fun hr => absurd hr h

theorem powerWords : Words PowerWord where
  icr := powerWord_other (by decide)
  argr := powerWord_other (by decide)
  cmdr := powerWord_other (by decide)
  dtimer := powerWord_other (by decide)
  dlen := powerWord_other (by decide)
  idmactrl := powerWord_other (by decide)
  idmabase0 := powerWord_other (by decide)
  dctrlZero := powerWord_other (by decide) _
  dctrlDma _ := powerWord_other (by decide) _
  dctrlScr := powerWord_other (by decide) _
  dctrlSsr := powerWord_other (by decide) _
  maskSet _ _ _ := powerWord_other (by decide) _
  maskClr _ _ := powerWord_other (by decide) _
  powerSet _ m h := fun hr => (h hr).or m
  clkInit _ := powerWord_other (by decide) _
  clkdiv _ _ _ _ := powerWord_other (by decide) _
  widbus _ _ _ := powerWord_other (by decide) _

theorem Periph.write_powerBits {p : Periph} (hp : PowerBits p.power) {r : Reg} {v : Word} (hv : PowerWord r v) : PowerBits (p.write r v).power := by
  cases r with
  | power => exact hv rfl
  | idmactrl =>
    obtain ⟨sta, hk⟩ := Periph.keepRx_eq
      { p with idmactrl := v, dmaCount := if v.getLsbD 0 then 0 else p.dmaCount, exhausted := p.exhausted && !v.getLsbD 0 }
    rw [Periph.write, hk]
    exact hp
  | dctrl => rw [Periph.write]; split <;> exact hp
  | _ => exact hp

@[simp] theorem Periph.afterRead_power (p : Periph) (r : Reg) : (p.afterRead r).power = p.power := by cases r <;> rfl

/-! ### The machine with the power of the bound controller on -/

/-- Controller `i` is bound, and its power is on. -/
def PoweredOn (i : Sdmmc) (s : State) : Prop := s.session.bound = some i ∧ PowerBits (s.periph i).power

section
variable {i : Sdmmc} {E : Stop → State → Prop}

theorem poweredOn_setPeriph {s : State} (h : PoweredOn i s) {p : Periph} (j : Sdmmc) (hp : j = i → PowerBits p.power) :
    PoweredOn i (s.setPeriph j p) := by
  refine ⟨by simpa using h.1, ?_⟩
  by_cases hj : i = j
  · subst hj
    rw [State.periph_setPeriph]
    exact hp rfl
  · rw [State.periph_setPeriph_ne _ _ hj]
    exact h.2

theorem poweredOn_regs : Regs (Partial (PoweredOn i)) (PoweredOn i) PowerWord where
  unbound _ _ _ := trivial
  read s j r h _ := poweredOn_setPeriph h j (by rintro rfl; simpa using h.2)
  value s j r h hj := by
    rintro rfl
    obtain rfl : i = j := Option.some.inj (h.1.symm.trans hj)
    exact h.2
  free _ := powerWord_other (by decide) _
  write s j r v h _ hv := poweredOn_setPeriph h j (by rintro rfl; exact Periph.write_powerBits h.2 hv)
  draws _ _ h := h

theorem poweredOn_envFree : EnvFree (PoweredOn i) :=
  ⟨fun _ _ h => h, fun s m h => ⟨by simpa using h.1, (envStep_applyEnv m s i).powerBits h.2⟩⟩

theorem poweredOn_handlerFree : HandlerFree (Partial (PoweredOn i)) (PoweredOn i) where
  appCmd _ _ h := h
  clear _ _ h := h
  complete _ h := h
  error _ _ h := h
  operation _ _ _ := trivial

theorem poweredOn_machine : MachineKeeps (PoweredOn i) PowerWord where
  host := ⟨poweredOn_regs, powerWords, fun _ _ h => h,
    hostSteps_keep poweredOn_regs powerWords poweredOn_handlerFree poweredOn_envFree (fun _ _ h => h) (fun _ _ h => h) (fun _ _ => trivial),
    partial_stops⟩
  hostStep _ _ h := h

theorem poweredOn_returns : Returns (PoweredOn i) (PoweredOn i) := ⟨fun _ _ h => h, fun _ _ _ h => h, fun _ h => h⟩

theorem poweredOn_exhaust {s : State} (h : PoweredOn i s) : PoweredOn i s.exhaust := by
  unfold State.exhaust
  split
  · exact h
  · exact poweredOn_setPeriph h _ (by rintro rfl; exact h.2)

theorem poweredOn_powerOn : PowerOnFree (PoweredOn i) := ⟨fun _ h => h, fun _ h => h, fun _ h => h, fun _ h => h, fun _ _ h => h⟩

theorem poweredOn_init : InitFree (PoweredOn i) :=
  ⟨poweredOn_powerOn, ⟨fun _ _ _ h => h, fun _ _ _ h => h, fun _ _ h => h⟩, fun _ _ h => h, fun _ _ _ h => h⟩

theorem poweredOn_mayWrite {x : Instr} (hx : ∀ sel, x ≠ .sdInitializeLL sel) : MayWrite (PoweredOn i) x where
  rca _ _ _ h := h
  bind sel h := absurd h (hx sel)
  init _ _ := poweredOn_init
  arm _ _ _ _ _ _ := ⟨fun _ h => h, fun _ h => h, fun _ _ h => h, fun _ _ h => h, fun _ _ h => h, fun _ _ _ h => h, fun _ _ h => h,
    fun _ _ h => h, fun _ h => poweredOn_exhaust h⟩
  check _ _ := ⟨fun _ h => h, fun _ h => h⟩
  info _ _ _ h := h
  ssr _ _ h := h
  status _ _ := ⟨fun _ _ h => h, fun _ _ h => h⟩
  power _ := poweredOn_powerOn
  identify _ := ⟨fun _ _ _ h => h, fun _ _ _ h => h, fun _ _ h => h⟩
  scr _ _ _ _ h := h
  irq j _ := runHandler_keeps poweredOn_regs powerWords poweredOn_handlerFree poweredOn_envFree (fun _ _ h => h) (fun _ _ => trivial) j

/-- So do the writes of a wait that goes on. -/
theorem poweredOn_placeWrites (p : Place) : PlaceWrites (PoweredOn i) p := by
  cases p with
  | delay caller =>
    cases caller with
    | host => exact poweredOn_powerOn
    | sdInit d => exact poweredOn_init
  | scrLoop => exact fun _ _ _ h => h
  | ssrLoop caller =>
    cases caller with
    | host => exact fun _ _ h => h
    | getCardStatus out => exact ⟨fun _ _ h => h, fun _ _ h => h, fun _ _ h => h⟩
  | _ => trivial

end

/-- Settles O37: a register write keeps the two bits of `PWRCTRL`, and only `SD_Initialize_LL` writes registers otherwise. -/
theorem powerStaysOn : Obligations.PowerStaysOn := by
  unfold Obligations.PowerStaysOn
  refine ⟨fun s t i x hx hi hp ht => exec_keeps poweredOn_machine poweredOn_returns (poweredOn_mayWrite hx).writes (⟨hi, hp⟩ : PoweredOn i s) ht,
    fun s t i hidle hsound hi hp ht => ?_⟩
  cases hin : s.hostStep with
  | idle => exact absurd hin hidle
  | inside p path =>
    rw [hin] at hsound
    have hplace : p.sound = true := (Bool.and_eq_true_iff.1 hsound).1
    rw [step_hold hin (fun j hj => by rw [hj] at hplace; cases hplace)] at ht
    exact resume_keeps poweredOn_machine poweredOn_returns (poweredOn_placeWrites p) hplace (⟨hi, hp⟩ : PoweredOn i s) ht

end Sys2Proof.Machine

/-! SUPPORT. Which instructions write the Transfer State (10 R47, 60 R368), where no interrupt is taken. -/

namespace Sys2Proof.Machine

/-- The Transfer State is as `P` says, and no interrupt is to come. -/
def TransferIn (P : Transfer → Prop) (s : State) : Prop := P s.xfer ∧ NoInterrupt s

section
variable {P : Transfer → Prop}

theorem transferIn_setPeriph {s : State} (h : TransferIn P s) (i : Sdmmc) (p : Periph) : TransferIn P (s.setPeriph i p) := by
  cases i <;> exact h

theorem transferIn_regs : Regs (Partial (TransferIn P)) (TransferIn P) AnyWord where
  unbound _ _ _ := trivial
  read _ _ _ h _ := transferIn_setPeriph h _ _
  value _ _ _ _ _ := trivial
  free _ := trivial
  write _ _ _ _ h _ _ := transferIn_setPeriph h _ _
  draws _ _ h := h

theorem transferIn_machine : MachineKeeps (TransferIn P) AnyWord where
  host := ⟨transferIn_regs, anyWord_words, fun _ _ h => h,
    (hostSteps_noInterrupt (J := fun s => P s.xfer) ⟨fun _ _ h => h, fun _ _ h => by simpa using h⟩ (fun _ _ h => h)).allowStop
      (fun _ _ h => h.elim), partial_stops⟩
  hostStep _ _ h := h

theorem transferIn_returns : Returns (TransferIn P) (TransferIn P) := ⟨fun _ _ h => h, fun _ _ _ h => h, fun _ h => h⟩

theorem transferIn_powerOn : PowerOnFree (TransferIn P) := ⟨fun _ h => h, fun _ h => h, fun _ h => h, fun _ h => h, fun _ _ h => h⟩

theorem transferIn_identify : IdentifyFree (TransferIn P) := ⟨fun _ _ _ h => h, fun _ _ _ h => h, fun _ _ h => h⟩

/-- An instruction that is neither an arming call nor an entry of `IRQ` writes of the Transfer State what a check call writes, if it is one. -/
theorem transferIn_mayWrite {x : Instr} (harm : ∀ d a b z n, x ≠ transferCall d a b z n) (hirq : ∀ i, x ≠ irqEntry i)
    (hcheck : ∀ d, x = checkCall d → ∀ c, P c → P (clearInProgress d c)) : MayWrite (TransferIn P) x where
  rca _ _ _ h := h
  bind _ _ := ⟨fun _ _ h => h, fun _ h => h, fun _ _ h => transferIn_setPeriph h _ _, fun _ _ h => transferIn_setPeriph h _ _⟩
  init _ _ := ⟨transferIn_powerOn, transferIn_identify, fun _ _ h => h, fun _ _ _ h => h⟩
  arm d a b z n h := absurd h (harm d a b z n)
  check d h := ⟨fun s hs => ⟨hcheck d h s.xfer hs.1, hs.2⟩, fun _ h => h⟩
  info _ _ _ h := h
  ssr _ _ h := h
  status _ _ := ⟨fun _ _ h => h, fun _ _ h => h⟩
  power _ := transferIn_powerOn
  identify _ := transferIn_identify
  scr _ _ _ _ h := h
  irq i h := absurd h (hirq i)

theorem transferIn_exec {x : Instr} (hx : MayWrite (TransferIn P) x) {s t : State} (hn : NoInterrupt s) (hs : P s.xfer) (ht : exec x s = .next t) :
    P t.xfer := (exec_keeps transferIn_machine transferIn_returns hx.writes (⟨hs, hn⟩ : TransferIn P s) ht).1

end

theorem clearInProgress_clearInProgress (d : Dir) (c : Transfer) : clearInProgress d (clearInProgress d c) = clearInProgress d c := by cases d <;> rfl

theorem checkCall_ne_transferCall (d d' : Dir) (a b z n : Word) : checkCall d ≠ transferCall d' a b z n := by cases d <;> cases d' <;> nofun

theorem checkCall_ne_irqEntry (d : Dir) (i : Sdmmc) : checkCall d ≠ irqEntry i := by cases d <;> cases i <;> nofun

theorem checkCall_injective {d d' : Dir} (h : checkCall d = checkCall d') : d = d' := by cases d <;> cases d' <;> cases h <;> rfl

/-- A check call leaves the Transfer State, or clears the flag of its direction. -/
theorem checkCall_xfer {s t : State} {d : Dir} (hn : NoInterrupt s) (ht : exec (checkCall d) s = .next t) :
    t.xfer = s.xfer ∨ t.xfer = clearInProgress d s.xfer := by
  refine transferIn_exec (P := fun c => c = s.xfer ∨ c = clearInProgress d s.xfer)
    (transferIn_mayWrite (checkCall_ne_transferCall d) (checkCall_ne_irqEntry d) (fun d' h c hc => ?_)) hn (.inl rfl) ht
  obtain rfl := checkCall_injective h
  obtain rfl | rfl := hc
  · exact .inr rfl
  · exact .inr (clearInProgress_clearInProgress ..)

/-- Settles O55: no other instruction writes the Transfer State, and a check call makes one write of it, to the flag of its direction. -/
theorem transferStateOwnership : Obligations.TransferStateOwnership := by
  unfold Obligations.TransferStateOwnership
  refine fun s t x hn ht => ⟨fun harm hcheck hirq => ?_, ?_⟩
  · exact transferIn_exec (P := (· = s.xfer)) (transferIn_mayWrite harm hirq (fun d h => absurd h (hcheck d))) hn rfl ht
  · rintro d rfl
    obtain h | h := checkCall_xfer hn ht
    · exact .inl h
    · exact .inr (by cases d <;> exact h)

end Sys2Proof.Machine

/-! SUPPORT. A command whose answer is the last thing the schedule holds: its result and the whole state after it, for each response type (40 R170). -/

namespace Sys2Proof.Machine

/-! ### The rows of the command table (30 R110) -/

/-- A command of the table has an index that the block issues and an admitted response type. -/
theorem commandRow_issued {n : Session} {x : Instr} {c a : Word} {rt : Int} (h : commandRow n x = some (c, a, rt)) :
    c.toNat < 64 ∧ responseTypeAdmitted rt = true := by
  cases x with
  | transmitCommand c' a' rt' =>
    simp only [commandRow] at h
    split at h
    next hadm =>
      cases h
      obtain ⟨hc, hrt⟩ := hadm
      have hlt : ∀ m ∈ [0, 2, 3, 6, 7, 8, 9, 12, 13, 16, 17, 18, 24, 25, 41, 51, 55], m < 64 := by decide
      refine ⟨hlt _ hc, ?_⟩
      obtain rfl | rfl | rfl | rfl | rfl := hrt <;> decide
    next => cases h
  | cmd7 | cmd9 | cmd13 =>
    obtain ⟨rca, -, he⟩ := Option.map_eq_some_iff.1 h
    cases he
    decide
  | acmd41 =>
    obtain ⟨cap, -, he⟩ := Option.map_eq_some_iff.1 h
    cases he
    decide
  | cmd17 | cmd18 | cmd24 | cmd25 =>
    obtain ⟨t, -, he⟩ := Option.map_eq_some_iff.1 h
    cases he
    decide
  | cmd16 len => cases len <;> (cases h; decide)
  | acmd6 w => cases w <;> (cases h; decide)
  | cmd55 arg =>
    cases arg with
    | none => cases h; decide
    | rcaArg =>
      obtain ⟨rca, -, he⟩ := Option.map_eq_some_iff.1 h
      cases he
      decide
  | cmd0 | cmd2 | cmd3 | cmd8 | cmd12 | acmd13 | acmd51 => cases h; decide
  | _ => cases h

/-! ### A command at the end of the schedule -/

/-- The session after a command with the result `e`, whose response was `r`: a type 6 command that gives `Ok` latches the RCA (40 R184). -/
def Session.latching (n : Session) (rt : Int) (e : Err) (r : Word) : Session :=
  if rt = 6 ∧ e = .ok then { n with rca := some (r.extractLsb' 16 16) } else n

theorem Session.latching_other {rt : Int} (h : rt ≠ 6) (n : Session) (e : Err) (r : Word) : n.latching rt e r = n := if_neg (fun hh => h hh.1)

/-- The classifier looks at `CTIMEOUT` and `CCRCFAIL` only. -/
theorem classifyFlags_congr {sta sta' : Word} (h2 : sta.getLsbD 2 = sta'.getLsbD 2) (h0 : sta.getLsbD 0 = sta'.getLsbD 0) (rt : Int) :
    classifyFlags sta rt = classifyFlags sta' rt := by
  simp only [classifyFlags, hasFlag_ctimeout, hasFlag_ccrcfail, h2, h0]

theorem classified_congr {sta sta' : Word} {rt : Int} (h : classifyFlags sta rt = classifyFlags sta' rt) (c rc r : Word) :
    classified c rt sta rc r = classified c rt sta' rc r := by rw [classified, classified, h]

section
variable {g : Agent} {f : Sdmmc → Act Unit} {cs : List Point} {s : State} {i : Sdmmc} {c a : Word} {rt : Int} {k : Nat} {moves : List Move}
  {q : Periph} {flags m : Word} {e : Err}

/-- A command that the last slot of the schedule answers, leaving controller `q` with the flags `flags` of the mask `m` set. -/
theorem transmit_last (hi : s.session.bound = some i) (hc : c.toNat < 64) (hadm : responseTypeAdmitted rt = true) (hk : k < s.cfg.cmdBudget)
    (hs : s.sched = quiet (4 + k) ++ [moves]) (hm : ∀ mv ∈ moves, mv.fromEnv = true)
    (hq : envMoves moves ((s.setSched []).setPeriph i ((s.periph i).commanded s.clearMask c a rt)) =
      (s.setSched []).setPeriph i { q with sta := q.sta ||| (flags &&& m) })
    (hicr : q.icr = s.clearMask) (hsta : q.sta = (s.periph i).sta &&& ~~~s.clearMask) (hmask : m &&& ~~~s.clearMask = 0)
    (hwait : hasFlag (flags &&& m) (waitSet rt) = true) (he : classified c rt (flags &&& m) q.respcmdr q.resp1 = some e) :
    transmitCommand (frameOf g f cs) c a rt s = .ok e (((((s.setSched []).setPeriph i q).setSession
      (s.session.latching rt e q.resp1)).setAppCmd (c = 55 && e = .ok)).moved g (atEnd cs)) := by
  have hwait' : hasFlag (q.sta ||| (flags &&& m)) (waitSet rt) = true := by
    rw [hsta, State.clearMask, hasFlag_of_answer _ _ _ _ _ ?_]
    · exact hwait
    · unfold waitSet
      split <;> cases s.cfg.clearSet <;> decide
  rw [transmitCommand, if_pos hadm, transmit_answered (f := f) hi hc a rt (Nat.le_of_lt_succ hk) hs hm hq (by simpa using hi) (by simpa using hwait')]
  have he' : classified c rt (q.sta ||| (flags &&& m)) q.respcmdr q.resp1 = some e := by
    rw [← he]
    apply classified_congr
    rw [hsta, State.clearMask, classifyFlags_of_answer]
  have hend := afterWait_still (g := g) (f := f) (cs := cs) (i := i)
    (t := ((((s.setSched []).setPeriph i { q with sta := q.sta ||| (flags &&& m) }).setAppCmd (decide (c = 55))).moved g (atPoll cs)))
    (by simp) (by simpa using hi) s.clearMask (by simpa using he')
  rw [hend, latched_of_classified (by simpa using he')]
  have hw := write_icr_answered q s.cfg.clearSet m flags hmask hicr (s.periph i).sta hsta
  simp only [State.moved_periph, State.setAppCmd_periph, State.periph_setPeriph, State.moved_session, State.setAppCmd_session,
    State.setPeriph_session, State.setSched_session, State.clearMask, hw, State.moved_setSession, State.moved_setPeriph, State.moved_setAppCmd,
    State.moved_moved, State.moved_appCmd]
  cases i <;> rfl

/-- So a call of it. -/
theorem exec_last {x : Instr} (hrow : commandRow s.session x = some (c, a, rt)) (hi : s.session.bound = some i) (hk : k < s.cfg.cmdBudget)
    (hs : s.sched = quiet (4 + k) ++ [moves]) (hm : ∀ mv ∈ moves, mv.fromEnv = true)
    (hq : ∀ t : State, t.periph i = (s.periph i).commanded s.clearMask c a rt →
      envMoves moves t = t.setPeriph i { q with sta := q.sta ||| (flags &&& m) })
    (hicr : q.icr = s.clearMask) (hsta : q.sta = (s.periph i).sta &&& ~~~s.clearMask) (hmask : m &&& ~~~s.clearMask = 0)
    (hwait : hasFlag (flags &&& m) (waitSet rt) = true) (he : classified c rt (flags &&& m) q.respcmdr q.resp1 = some e) :
    exec x s = .next ((((s.setPeriph i q).setSession (s.session.latching rt e q.resp1)).setAppCmd (decide (c = 55 ∧ e = .ok))).returned []
      (.err e)) := by
  obtain ⟨hc, hadm⟩ := commandRow_issued hrow
  rw [exec_of_commandRow hrow]
  have hrun := transmit_last (g := .host) (f := takeIrq irqHandler) (cs := []) (s := s.enter x) (a := a) (q := q) (flags := flags) (m := m) hi hc hadm
    hk (by simpa using hs) hm ((hq _ (by simp; rfl)).trans (by simp)) hicr (by rw [State.enter_periph]; exact hsta) hmask hwait he
  refine (finish_ok hrun).trans ?_
  simp only [Bool.decide_and]
  cases i <;> rfl

end

/-! ### The answers -/

section
variable {s : State} {i : Sdmmc} {x : Instr} {c a : Word} {rt : Int} {k : Nat} {index response flags : Word} {e : Err}

/-- What the classifier reads of the flags that answer a command. -/
theorem classified_answer (rt : Int) (flags c rc r : Word) : classified c rt (flags &&& respWait) rc r = classified c rt flags rc r := by
  have h2 : respWait.getLsbD 2 = true := by decide
  have h0 : respWait.getLsbD 0 = true := by decide
  exact classified_congr (classifyFlags_congr (by rw [BitVec.getLsbD_and, h2, Bool.and_true]) (by rw [BitVec.getLsbD_and, h0, Bool.and_true]) rt) c rc r

theorem hasFlag_answer (hf : flags &&& respWait ≠ 0) (hrt : 0 < rt) : hasFlag (flags &&& respWait) (waitSet rt) = true := by
  rw [waitSet_pos hrt, hasFlag, BitVec.and_assoc, BitVec.and_self]
  simpa using hf

/-- A command with a short response, answered at poll `k + 1`. -/
theorem exec_answeredShort (hrow : commandRow s.session x = some (c, a, rt)) (hi : s.session.bound = some i) (hk : k < s.cfg.cmdBudget)
    (hs : s.sched = quiet (4 + k) ++ [shortAnswer i index response flags]) (hf : flags &&& respWait ≠ 0) (hrt : 0 < rt) (h2 : rt ≠ 2)
    (he : classified c rt flags index response = some e) : exec x s =
      .next ((((s.setPeriph i ((s.periph i).answeredShort s.clearMask c a rt index response)).setSession
        (s.session.latching rt e response)).setAppCmd (decide (c = 55 ∧ e = .ok))).returned [] (.err e)) := by
  obtain ⟨hc, hadm⟩ := commandRow_issued hrow
  refine exec_last (flags := flags) (m := respWait) hrow hi hk hs (by simp [shortAnswer, Move.fromEnv]) (fun t ht => ?_) rfl rfl
    (respWait_cleared _) (hasFlag_answer hf hrt) ((classified_answer ..).trans he)
  rw [envMoves_short, ht]
  · rfl
  · exact ht ▸ commandWord_cpsmen _ _ _
  · rw [ht]; rfl
  · rw [ht]; exact (commandWord_noResponse _ hc _).trans (by simpa using waitResp_ne (show rt ≠ 0 by omega))
  · rw [ht]; exact (commandWord_longResponse _ hc _).trans (by simpa using waitResp_short hadm h2)
  · simpa [hasFlag] using hf

/-- A command with a long response, answered at poll `k + 1`. -/
theorem exec_answeredLong {w : Reg128} (hrow : commandRow s.session x = some (c, a, 2)) (hi : s.session.bound = some i) (hk : k < s.cfg.cmdBudget)
    (hs : s.sched = quiet (4 + k) ++ [longAnswer i w flags]) (hf : flags &&& respWait ≠ 0)
    (he : ∀ rc r, classified c 2 flags rc r = some e) : exec x s =
      .next (((s.setPeriph i ((s.periph i).answeredLong s.clearMask c a 2 w)).setAppCmd (decide (c = 55 ∧ e = .ok))).returned [] (.err e)) := by
  obtain ⟨hc, hadm⟩ := commandRow_issued hrow
  refine (exec_last (q := (s.periph i).answeredLong s.clearMask c a 2 w) (flags := flags) (m := respWait) hrow hi hk hs
    (by simp [longAnswer, Move.fromEnv]) (fun t ht => ?_) rfl rfl
    (respWait_cleared _) (hasFlag_answer hf (by decide)) ((classified_answer ..).trans (he _ _))).trans ?_
  · rw [envMoves_long, ht]
    · rfl
    · exact ht ▸ commandWord_cpsmen _ _ _
    · rw [ht]; rfl
    · rw [ht]; exact (commandWord_noResponse _ hc _).trans (by decide)
    · rw [ht]; exact (commandWord_longResponse _ hc _).trans (by decide)
    · simpa [hasFlag] using hf
  · rw [Session.latching_other (by decide)]
    cases i <;> rfl

end

/-! ### The response types (40 R170) -/

/-- Settles O15: the cascade for type 1 ends with the card status. -/
theorem statusCommandResult : Obligations.StatusCommandResult := by
  unfold Obligations.StatusCommandResult
  intro s i x c a k index response flags hrow hi hk hs hf e
  have he : classified c 1 flags index response = some e := by
    rw [classified_cascade (by decide)]
    simp [e]
  refine (exec_answeredShort hrow hi hk hs hf (by decide) (by decide) he).trans ?_
  rw [Session.latching_other (by decide)]
  cases i <;> rfl

/-- Settles O16: for type 3 only the timeout flag counts. -/
theorem probeCommandResult : Obligations.ProbeCommandResult := by
  unfold Obligations.ProbeCommandResult
  intro s i x c a k index response flags hrow hi hk hs hf e
  have he : classified c 3 flags index response = some e := by
    rw [classified_cascade (by decide)]
    simp [e]
  refine (exec_answeredShort hrow hi hk hs hf (by decide) (by decide) he).trans ?_
  rw [Session.latching_other (by decide)]
  cases i <;> rfl

/-- Settles O17: the cascade for type 2 ends before the index. -/
theorem longCommandResult : Obligations.LongCommandResult := by
  unfold Obligations.LongCommandResult
  intro s i x c a k w flags hrow hi hk hs hf e
  refine exec_answeredLong hrow hi hk hs hf (fun rc r => ?_)
  rw [classified_cascade (by decide)]
  simp [e]

/-- Settles O18: `CMDSENT` ends the wait, and no response register is written. -/
theorem noResponseCommandResult : Obligations.NoResponseCommandResult := by
  unfold Obligations.NoResponseCommandResult
  intro s i x c a k hrow hi hk hs
  obtain ⟨hc, hadm⟩ := commandRow_issued hrow
  refine (exec_last (q := ((s.periph i).commanded s.clearMask c a 0).ended) (flags := cmdsent) (m := cmdsent) (e := .ok) hrow hi hk hs
    (by simp [Move.fromEnv]) (fun t ht => ?_) rfl rfl (cmdsent_cleared _) (by decide) ?_).trans ?_
  · rw [envMoves_sent, ht]
    · rfl
    · exact ht ▸ commandWord_cpsmen _ _ _
    · rw [ht]; exact (commandWord_noResponse _ hc _).trans (by decide)
  · have hflag : (cmdsent &&& cmdsent).getLsbD 2 = false := by decide
    rw [classified_cascade (by decide), hflag]
    rfl
  · rw [Session.latching_other (by decide)]
    simp only [and_true]
    cases i <;> rfl

/-- Settles O19: the cascade for type 6 ends with the error bits of the response, and zero error bits latch the RCA. -/
theorem relativeAddressCommandResult : Obligations.RelativeAddressCommandResult := by
  unfold Obligations.RelativeAddressCommandResult
  intro s i x c a k index response flags hrow hi hk hs hf e n
  have he : classified c 6 flags index response = some e := by
    rw [classified_cascade (by decide)]
    simp [e, r6ErrorBits, r6Error]
  refine (exec_answeredShort hrow hi hk hs hf (by decide) (by decide) he).trans ?_
  have hn : s.session.latching 6 e response = n := by simp [Session.latching, n]
  rw [hn]

end Sys2Proof.Machine

/-! SUPPORT. A command that no flag of its wait set ends, whatever else `ENV` does (40 R166). -/

namespace Sys2Proof.Machine

/-! ### Flags that `ENV` does not set -/

theorem or_and_eq_zero {x y w : Word} (hx : x &&& w = 0) (hy : y &&& w = 0) : (x ||| y) &&& w = 0 := by
  rw [BitVec.and_or_distrib_right, hx, hy]
  exact BitVec.or_zero

theorem and_and_eq_zero {x w : Word} (hx : x &&& w = 0) (m : Word) : x &&& m &&& w = 0 := by
  rw [BitVec.and_assoc, BitVec.and_comm m, ← BitVec.and_assoc, hx]
  exact BitVec.zero_and

/-- The mask holds flags of a command only: no data flag, no `IDMATE`, no flag that follows the hardware state (10 R58). -/
def CommandMask (w : Word) : Prop := dataFlags &&& w = 0 ∧ idmate &&& w = 0 ∧ dynamicFlags &&& w = 0 ∧ rxfifoe &&& w = 0

theorem commandMask_waitSet (rt : Int) : CommandMask (waitSet rt) := by
  unfold waitSet CommandMask
  split <;> decide

section
variable {w : Word} {p q : Periph}

theorem syncRx_and_eq_zero (hw : CommandMask w) (hp : p.sta &&& w = 0) : p.syncRx.sta &&& w = 0 := by
  obtain ⟨-, -, -, hrx⟩ := hw
  rw [Periph.syncRx]
  split
  · exact or_and_eq_zero hp hrx
  · exact and_and_eq_zero hp _

theorem keepRx_and_eq_zero (hw : CommandMask w) (hp : p.sta &&& w = 0) : p.keepRx.sta &&& w = 0 := by
  rw [Periph.keepRx]
  split
  · exact syncRx_and_eq_zero hw hp
  · exact hp

theorem dataFlagsAllowed_and (p : Periph) (hw : CommandMask w) : p.dataFlagsAllowed &&& w = 0 := by
  obtain ⟨hd, -, -, -⟩ := hw
  rw [Periph.dataFlagsAllowed]
  split
  · exact and_and_eq_zero hd _
  · exact hd

/-- A move that sets no flag of the mask. -/
theorem Periph.MoveStep.flags (h : p.MoveStep (fun flags => flags &&& w = 0) q) (hw : CommandMask w) (hp : p.sta &&& w = 0) : q.sta &&& w = 0 := by
  obtain ⟨hd, hi, hdyn, -⟩ := id hw
  cases h with
  | cmdFlags flags _ hF => exact or_and_eq_zero hp (and_and_eq_zero hF _)
  | dataFlags flags => exact or_and_eq_zero hp (by rw [BitVec.and_assoc, dataFlagsAllowed_and p hw]; exact BitVec.and_zero)
  | fifoPush x => exact syncRx_and_eq_zero hw hp
  | idmaError => exact or_and_eq_zero hp hi
  | dynFlags flags =>
    refine keepRx_and_eq_zero hw (or_and_eq_zero (and_and_eq_zero hp _) ?_)
    rw [BitVec.and_assoc, hdyn]
    exact BitVec.and_zero
  | respond r v => cases r <;> exact hp
  | reservedBits r v => cases r <;> exact hp
  | _ => exact hp

/-- The command that the controller was given: its argument, index and response code. -/
structure Commanded (a : Word) (index : BitVec 6) (code : BitVec 2) (p : Periph) : Prop where
  argr : p.argr = a
  index : p.cmdr.extractLsb' 0 6 = index
  code : p.cmdr.extractLsb' 8 2 = code

/-- `ENV` writes no argument, and of `CMDR` only `CPSMEN` and reserved bits (10 R61, 93 U23). -/
theorem Periph.EnvStep.commanded {a : Word} {index : BitVec 6} {code : BitVec 2} (h : p.EnvStep q) (hp : Commanded a index code p) :
    Commanded a index code q := by
  have hend : (∀ n < 6, (~~~cpsmen).getLsbD n = true) ∧ ∀ n < 2, (~~~cpsmen).getLsbD (8 + n) = true := by decide
  have hres : (∀ n < 6, (reservedMask .cmdr).getLsbD n = false) ∧ ∀ n < 2, (reservedMask .cmdr).getLsbD (8 + n) = false := by decide
  have hkept : (∀ n < 6, (~~~reservedMask .cmdr).getLsbD n = true) ∧ ∀ n < 2, (~~~reservedMask .cmdr).getLsbD (8 + n) = true := by decide
  obtain ⟨hargr, hindex, hcode⟩ := hp
  cases h with
  | cmdEnd =>
    refine ⟨hargr, hindex ▸ BitVec.eq_of_getLsbD_eq (fun n hn => ?_), hcode ▸ BitVec.eq_of_getLsbD_eq (fun n hn => ?_)⟩
    · simp only [BitVec.getLsbD_extractLsb', BitVec.getLsbD_and, Nat.zero_add, hend.1 n hn, Bool.and_true]
    · simp only [BitVec.getLsbD_extractLsb', BitVec.getLsbD_and, hend.2 n hn, Bool.and_true]
  | reservedBits r v =>
    cases r with
    | cmdr =>
      refine ⟨hargr, hindex ▸ BitVec.eq_of_getLsbD_eq (fun n hn => ?_), hcode ▸ BitVec.eq_of_getLsbD_eq (fun n hn => ?_)⟩
      · simp only [Periph.setReserved, BitVec.getLsbD_extractLsb', BitVec.getLsbD_or, BitVec.getLsbD_and, Nat.zero_add, hres.1 n hn,
          hkept.1 n hn, Bool.and_false, Bool.and_true, Bool.or_false]
      · simp only [Periph.setReserved, BitVec.getLsbD_extractLsb', BitVec.getLsbD_or, BitVec.getLsbD_and, hres.2 n hn, hkept.2 n hn,
          Bool.and_false, Bool.and_true, Bool.or_false]
    | _ => exact ⟨hargr, hindex, hcode⟩
  | fifoPush x => exact ⟨hargr, hindex, hcode⟩
  | dynFlags flags =>
    obtain ⟨sta, hk⟩ := Periph.keepRx_eq { p with sta := (p.sta &&& ~~~dynamicFlags) ||| (flags &&& dynamicFlags) }
    rw [hk]
    exact ⟨hargr, hindex, hcode⟩
  | respond r v => cases r <;> exact ⟨hargr, hindex, hcode⟩
  | _ => exact ⟨hargr, hindex, hcode⟩

end

/-! ### Steps counted -/

/-- No stop. -/
abbrev Never (_ : Stop) (_ : State) : Prop := False

/-- `n` steps after `s`: what `ENV` cannot change is as in `s`, `n` slots of the schedule are used up, and `P` holds of controller `i`. -/
structure Elapsed (s : State) (i : Sdmmc) (n : Nat) (P : Periph → Prop) (t : State) : Prop where
  undisturbed : Undisturbed s t
  sched : t.sched = s.sched.drop n
  periph : P (t.periph i)

/-- The moves before step `n + 1` keep `P`. -/
def SlotKeeps (s : State) (i : Sdmmc) (n : Nat) (P : Periph → Prop) : Prop :=
  ∀ slot, s.sched[n]? = some slot → ∀ m ∈ slot, ∀ t : State, P (t.periph i) → P ((applyEnv m t).periph i)

section
variable {s : State} {i : Sdmmc} {n : Nat} {P Q : Periph → Prop} {cs : List Point} {pt : Point} {E : Stop → State → Prop}

theorem Elapsed.mono {t : State} (h : Elapsed s i n P t) (hPQ : ∀ p, P p → Q p) : Elapsed s i n Q t := ⟨h.undisturbed, h.sched, hPQ _ h.periph⟩

theorem slotKeeps_envStep (h : ∀ p q : Periph, p.EnvStep q → P p → P q) (n : Nat) : SlotKeeps s i n P :=
  fun _ _ m _ t ht => h _ _ (envStep_applyEnv m t i) ht

theorem envMoves_keeps {moves : List Move} {t : State} (hm : ∀ m ∈ moves, ∀ t : State, P (t.periph i) → P ((applyEnv m t).periph i))
    (ht : P (t.periph i)) : P ((envMoves moves t).periph i) := by
  induction moves generalizing t with
  | nil => exact ht
  | cons m rest ih => exact ih (fun m hm' => hm m (List.mem_cons_of_mem _ hm')) (hm m (List.mem_cons_self ..) t ht)

theorem envMoves_undisturbed {moves : List Move} {t : State} (ht : Undisturbed s t) : Undisturbed s (envMoves moves t) := by
  induction moves generalizing t with
  | nil => exact ht
  | cons m rest ih =>
    refine ih ⟨by simpa using ht.1, ?_⟩
    rw [NoInterrupt, applyEnv_sched]
    exact ht.2

theorem envMoves_sched (moves : List Move) (t : State) : (envMoves moves t).sched = t.sched := by
  induction moves generalizing t with
  | nil => rfl
  | cons m rest ih => exact (ih _).trans (applyEnv_sched m t)

/-- One step of `HOST`. -/
theorem step_elapsed (hk : SlotKeeps s i n P) : Spec E (Elapsed s i n P) ((frameOf .host (takeIrq irqHandler) cs).step pt)
    (fun _ => Elapsed s i (n + 1) P) := by
  rintro t ⟨hu, hs, hp⟩
  cases hd : s.sched.drop n with
  | nil =>
    rw [step_quiet (by rw [hs, hd]; rfl)]
    have hnext : s.sched.drop (n + 1) = [] := by rw [List.drop_add_one_eq_tail_drop, hd]; rfl
    exact ⟨⟨by simpa using hu.1, by intro slot hslot; simp [hs, hd] at hslot⟩, by simp [hs, hd, hnext], by simpa using hp⟩
  | cons slot rest =>
    have hsched : t.sched = slot :: rest := hs.trans hd
    have hnext : s.sched.drop (n + 1) = rest := by rw [List.drop_add_one_eq_tail_drop, hd]; rfl
    have henv : ∀ m ∈ slot, m.fromEnv = true := hu.2 slot (by rw [hsched]; exact List.mem_cons_self ..)
    rw [step_env hsched henv]
    have hu' : Undisturbed s (t.setSched rest) :=
      ⟨by simpa using hu.1, fun x hx => hu.2 x (by rw [hsched]; exact List.mem_cons_of_mem _ hx)⟩
    obtain ⟨h1, h2⟩ := envMoves_undisturbed (moves := slot) hu'
    refine ⟨⟨by simpa using h1, by simpa [NoInterrupt] using h2⟩, by simp [envMoves_sched, hnext], ?_⟩
    rw [State.moved_periph]
    have hslot : s.sched[n]? = some slot := by
      rw [← Nat.add_zero n, ← List.getElem?_drop, hd]
      rfl
    exact envMoves_keeps (hk slot hslot) (by simpa using hp)

theorem pass_elapsed (proc : Proc) (p : Nat × Nat) (rest : List (Nat × Nat)) : Spec E (Elapsed s i n P)
    ((frameOf .host (takeIrq irqHandler) cs).pass proc (p :: rest)) (fun _ => Elapsed s i n P) := by
  rintro t ⟨hu, hs, hp⟩
  rw [run_pass]
  exact ⟨⟨by simpa using hu.1, by simpa [NoInterrupt] using hu.2⟩, by simpa using hs, by simpa using hp⟩

/-- A write of a register of the bound controller. -/
theorem regWrite_elapsed (hi : s.session.bound = some i) (hk : SlotKeeps s i n P) {r : Reg} {v : Word} (hw : ∀ p, P p → Q (p.write r v)) :
    Spec E (Elapsed s i n P) (regWrite (frameOf .host (takeIrq irqHandler) cs) pt r v) (fun _ => Elapsed s i (n + 1) Q) := by
  refine (step_elapsed hk).bind (fun _ => Spec.getState_bind (fun t ht => ?_))
  rw [boundRegister_some (by rw [ht.undisturbed.session, hi])]
  refine Spec.update ?_
  rintro _ rfl
  obtain ⟨hu, hs, hp⟩ := ht
  exact ⟨⟨by simpa using hu.1, by simpa [NoInterrupt] using hu.2⟩, by simpa using hs, by simpa using hw _ hp⟩

/-- A read of one: the value is the register's. -/
theorem regRead_elapsed (hi : s.session.bound = some i) (hk : SlotKeeps s i n P) {r : Reg} (hr : r ≠ .fifo) :
    Spec E (Elapsed s i n P) (regRead (frameOf .host (takeIrq irqHandler) cs) pt r) (fun v => Elapsed s i (n + 1) (fun p => P p ∧ v = p.value r)) := by
  intro t ht
  have hstep := step_elapsed (E := E) (cs := cs) (pt := pt) hk t ht
  cases hb : (frameOf .host (takeIrq irqHandler) cs).step pt t with
  | error e u =>
    rw [hb] at hstep
    rw [regRead, run_bind_error hb]
    exact hstep
  | ok _ u =>
    rw [hb] at hstep
    rw [regRead_plain hb (by rw [hstep.undisturbed.session, hi]) hr]
    exact ⟨hstep.undisturbed, hstep.sched, hstep.periph, rfl⟩

end

/-! ### The command (40 R165, R166) -/

section
variable {s : State} {i : Sdmmc} {n : Nat} {a c : Word} {index : BitVec 6} {code : BitVec 2} {w : Word} {cs : List Point} {rt : Int}

/-- The controller waits for a flag of `w`, none of which is set. -/
def Awaiting (w a : Word) (index : BitVec 6) (code : BitVec 2) (p : Periph) : Prop := p.sta &&& w = 0 ∧ Commanded a index code p

/-- The write of the command word starts the wait. -/
theorem awaiting_write_cmdr {p : Periph} (hsta : p.sta &&& w = 0) (hargr : p.argr = a) (v : Word) (hc : c.toNat < 64) (rt : Int) :
    Awaiting w a (c.extractLsb' 0 6) ((waitResp rt).extractLsb' 0 2) (p.write .cmdr (commandWord v c rt)) :=
  ⟨hsta, hargr, commandWord_index .., commandWord_waitResp _ hc _⟩

/-- The slots `k` on set no flag of the wait set. -/
def SilentFrom (s : State) (i : Sdmmc) (w : Word) (k n : Nat) : Prop :=
  ∀ slot ∈ (s.sched.drop k).take n, ∀ flags, .cmdFlags i flags ∈ slot → flags &&& w = 0

theorem SilentFrom.slot {k j : Nat} (h : SilentFrom s i w k n) (hk : k ≤ j) (hj : j < k + n) {slot : List Move} (hs : s.sched[j]? = some slot)
    (flags : Word) (hf : .cmdFlags i flags ∈ slot) : flags &&& w = 0 := by
  refine h slot (List.mem_of_getElem? (i := j - k) ?_) flags hf
  rw [List.getElem?_take_of_lt (by omega), List.getElem?_drop, Nat.add_sub_cancel' hk, hs]

/-- A slot that sets no flag of the wait set keeps them clear. -/
theorem SilentFrom.flags {k j : Nat} (h : SilentFrom s i (waitSet rt) k n) (hk : k ≤ j) (hj : j < k + n) :
    SlotKeeps s i j (fun p => p.sta &&& waitSet rt = 0) :=
  fun _ hs m hm t ht =>
    (moveStep_applyEnv m t i (fun flags hflags => h.slot hk hj hs flags (hflags ▸ hm))).flags (commandMask_waitSet rt) ht

theorem SlotKeeps.and {P Q : Periph → Prop} (hP : SlotKeeps s i n P) (hQ : SlotKeeps s i n Q) : SlotKeeps s i n (fun p => P p ∧ Q p) :=
  fun slot hs m hm t ht => ⟨hP slot hs m hm t ht.1, hQ slot hs m hm t ht.2⟩

theorem slotKeeps_argr (n : Nat) : SlotKeeps s i n (fun p => p.argr = a) :=
  slotKeeps_envStep (fun _ _ hpq hp => (hpq.commanded ⟨hp, rfl, rfl⟩).argr) n

theorem slotKeeps_commanded (n : Nat) : SlotKeeps s i n (Commanded a index code) := slotKeeps_envStep (fun _ _ hpq hp => hpq.commanded hp) n

/-- So it keeps the wait. -/
theorem SilentFrom.awaiting {k j : Nat} (h : SilentFrom s i (waitSet rt) k n) (hk : k ≤ j) (hj : j < k + n) :
    SlotKeeps s i j (Awaiting (waitSet rt) a index code) := (h.flags hk hj).and (slotKeeps_commanded j)

/-- The polls see nothing. -/
theorem pollStatus_awaiting (hi : s.session.bound = some i) (b : Nat) {j : Nat} (h : SilentFrom s i (waitSet rt) 1 (j + b)) :
    Spec Never (Elapsed s i (j + 1) (Awaiting (waitSet rt) a index code)) (pollStatus (frameOf .host (takeIrq irqHandler) cs) (waitSet rt) b)
      (fun hit t => Elapsed s i (j + 1 + b) (Awaiting (waitSet rt) a index code) t ∧ hit = false) := by
  induction b generalizing j with
  | zero => exact Spec.bind (pass_elapsed _ _ _) (fun _ => Spec.pure (fun _ ht => ⟨ht, rfl⟩))
  | succ b ih =>
    refine Spec.bind (pass_elapsed _ _ _) (fun _ => (regRead_elapsed hi (h.awaiting (by omega) (by omega)) (by decide)).bind (fun sta => ?_))
    refine Spec.bind (pass_elapsed _ _ _) (fun _ => Spec.ite (fun hhit t ht => ?_) (fun _ => ?_))
    · obtain ⟨hp, rfl⟩ := ht.periph
      have : hasFlag (t.periph i).sta (waitSet rt) = false := by simp [hasFlag, hp.1]
      exact absurd (this.symm.trans hhit) Bool.false_ne_true
    · refine (ih (j := j + 1) (by rwa [Nat.add_right_comm, Nat.add_assoc])).imp (fun t ht => ht.mono (fun p hp => hp.1)) ?_
      rintro hit t ⟨ht, rfl⟩
      exact ⟨by rwa [show j + 1 + (b + 1) = j + 1 + 1 + b by omega], rfl⟩

/-- What a silent command leaves: the clear of the flags as its last write. -/
def Unanswered (clear a : Word) (index : BitVec 6) (code : BitVec 2) (p : Periph) : Prop :=
  Commanded a index code p ∧ p.icr = clear ∧ p.sta &&& clear = 0

theorem Commanded.write_icr {p : Periph} (h : Commanded a index code p) (m : ClearSet) :
    Unanswered (clearSetMask m) a index code (p.write .icr (clearSetMask m)) := by
  refine ⟨⟨h.argr, h.index, h.code⟩, rfl, ?_⟩
  show clearedBy p.sta (clearSetMask m) &&& clearSetMask m = 0
  rw [clearedBy_clearSet, BitVec.and_assoc, BitVec.and_comm (~~~_), BitVec.and_not_self]
  exact BitVec.and_zero

theorem transmit_awaiting (hi : s.session.bound = some i) (hc : c.toNat < 64) (hadm : responseTypeAdmitted rt = true)
    (h : SilentFrom s i (waitSet rt) 1 (3 + s.cfg.cmdBudget)) :
    Spec Never (Elapsed s i 0 (fun _ => True)) (transmitCommand (frameOf .host (takeIrq irqHandler) cs) c a rt)
      (fun e t => Elapsed s i (5 + s.cfg.cmdBudget)
        (Unanswered s.clearMask a (c.extractLsb' 0 6) ((waitResp rt).extractLsb' 0 2)) t ∧ t.appCmd = false ∧ e = .timeout) := by
  rw [transmitCommand, if_pos hadm]
  refine Spec.bind (pass_elapsed _ _ _) (fun _ => Spec.getState_bind (fun t ht => ?_))
  rw [ht.undisturbed.cfg]
  refine Spec.imp (J := Elapsed s i 0 (fun _ => True)) ?_ (by rintro _ rfl; exact ht) (fun _ _ hh => hh)
  -- the writes of ICR and ARGR, the read and the write of CMDR: slots 0 to 3
  refine (regWrite_elapsed (Q := fun p => p.sta &&& waitSet rt = 0) hi (fun _ _ _ _ _ hp => hp) (fun p _ => ?_)).bind (fun _ => ?_)
  · show clearedBy p.sta (clearSetMask s.cfg.clearSet) &&& waitSet rt = 0
    rw [clearedBy_clearSet]
    simpa [hasFlag] using waitSet_cleared p.sta s.cfg.clearSet rt
  refine (regWrite_elapsed (r := .argr) (v := a) (Q := fun p => p.sta &&& waitSet rt = 0 ∧ p.argr = a) hi (h.flags (by omega) (by omega)) (fun p hp => ⟨hp, rfl⟩)).bind
    (fun _ => ?_)
  refine (regRead_elapsed hi ((h.flags (by omega) (by omega)).and (slotKeeps_argr _)) (by decide)).bind (fun v => ?_)
  refine Spec.imp (J := Elapsed s i 3 (fun p => p.sta &&& waitSet rt = 0 ∧ p.argr = a)) ?_ (fun t ht => ht.mono (fun p hp => hp.1)) (fun _ _ hh => hh)
  refine (regWrite_elapsed (r := .cmdr) hi ((h.flags (by omega) (by omega)).and (slotKeeps_argr _))
    (fun p hp => awaiting_write_cmdr hp.1 hp.2 v hc rt)).bind (fun _ => ?_)
  refine Spec.bind (Spec.update (fun t ht => ⟨ht.undisturbed, ht.sched, by simpa using ht.periph⟩)) (fun _ => Spec.bind (pass_elapsed _ _ _) (fun _ => ?_))
  -- the polls, then the last clear
  refine (pollStatus_awaiting hi s.cfg.cmdBudget h).bind (fun hit t ht => ?_)
  obtain ⟨ht, rfl⟩ := ht
  refine Spec.bind (R := fun e t => Elapsed s i (4 + s.cfg.cmdBudget)
    (Awaiting (waitSet rt) a (c.extractLsb' 0 6) ((waitResp rt).extractLsb' 0 2)) t ∧ e = .timeout)
    (Spec.bind (pass_elapsed _ _ _) (fun _ => Spec.bind (pass_elapsed _ _ _) (fun _ => Spec.pure (fun _ ht => ⟨ht, rfl⟩)))) (fun e u hu => ?_) t ht
  obtain ⟨hu, rfl⟩ := hu
  refine Spec.bind (R := fun _ => Elapsed s i (5 + s.cfg.cmdBudget)
    (Unanswered s.clearMask a (c.extractLsb' 0 6) ((waitResp rt).extractLsb' 0 2))) ?_ (fun _ => ?_) u (hu.mono (fun p hp => hp.2))
  · rw [show 5 + s.cfg.cmdBudget = 4 + s.cfg.cmdBudget + 1 by omega]
    exact regWrite_elapsed hi (slotKeeps_commanded _) (fun p hp => hp.write_icr _)
  · refine Spec.bind (R := fun _ t => Elapsed s i (5 + s.cfg.cmdBudget)
      (Unanswered s.clearMask a (c.extractLsb' 0 6) ((waitResp rt).extractLsb' 0 2)) t ∧ t.appCmd = false)
      (Spec.update (fun t ht => ⟨⟨ht.undisturbed, ht.sched, by simpa using ht.periph⟩, by simp⟩)) (fun _ t ht => ?_)
    rw [run_pass_bind]
    exact ⟨⟨⟨by simpa using ht.1.undisturbed.1, by simpa [NoInterrupt] using ht.1.undisturbed.2⟩, by simpa using ht.1.sched, by simpa using ht.1.periph⟩,
      by simpa using ht.2, rfl⟩

/-- `WAITRESP` of each admitted response type (30 R102). -/
theorem waitResp_code (hadm : responseTypeAdmitted rt = true) : (waitResp rt).extractLsb' 0 2 = if rt = 0 then 0 else if rt = 2 then 3 else if rt = 3
    then 2 else 1 := by
  simp only [responseTypeAdmitted, decide_eq_true_eq] at hadm
  obtain rfl | rfl | rfl | rfl | rfl := hadm <;> decide

end

/-- Settles O20: no poll sees a flag of the wait set, and the last write clears the flags of the command. -/
theorem silentCommandTimesOut : Obligations.SilentCommandTimesOut := by
  unfold Obligations.SilentCommandTimesOut
  intro s i x c a rt hrow hi
  obtain ⟨hc, hadm⟩ := commandRow_issued hrow
  rw [exec_of_commandRow hrow]
  refine ⟨fun hs => ?_, fun hn hsilent => ?_⟩
  · have hrun := transmit_silent (g := .host) (f := takeIrq irqHandler) (cs := []) (s := s.enter x) (i := i) hi hc a hadm hs
    refine (finish_ok hrun :).trans ?_
    rw [State.returned, setSched_self (by simpa using hs)]
    cases i <;> rfl
  · have hspec := transmit_awaiting (cs := []) (a := a) hi hc hadm hsilent
    obtain ⟨e, t, ht, helapsed, happ, rfl⟩ := finish_completes (i := x) (r := .err) hspec
      (⟨undisturbed_enter hn x, rfl, trivial⟩ : Elapsed s i 0 (fun _ => True) (s.enter x))
    obtain ⟨hcmd, hicr, hsta⟩ := helapsed.periph
    exact ⟨_, ht, rfl, rfl, happ, helapsed.undisturbed.session, helapsed.undisturbed.xfer, helapsed.sched, by simpa using hcmd.argr, by simpa using hcmd.index,
      by simpa using hcmd.code.trans (waitResp_code hadm), by simpa using hicr, by simpa using hsta⟩

end Sys2Proof.Machine

/-! SUPPORT. Every command returns whatever `ENV` does, and what it leaves unchanged (40 R165, 20 R82). -/

namespace Sys2Proof.Machine

/-! ### Boundaries at which only certain moves of `ENV` are made -/

/-- The moves to come are moves of `ENV`, and all are `M`. -/
def OnlyMoves (M : Move → Prop) (s : State) : Prop := ∀ slot ∈ s.sched, ∀ m ∈ slot, m.fromEnv = true ∧ M m

section
variable {E : Stop → State → Prop} {M : Move → Prop} {J : State → Prop}

theorem envMoves_onlyMoves (he : ∀ s m, M m → J s → J (applyEnv m s)) {moves : List Move} (hm : ∀ m ∈ moves, M m) {s : State} (hs : J s) :
    J (envMoves moves s) := by
  induction moves generalizing s with
  | nil => exact hs
  | cons m rest ih => exact ih (fun m hm' => hm m (List.mem_cons_of_mem _ hm')) (he s m (hm m (List.mem_cons_self ..)) hs)

/-- The steps of `HOST` keep what its moves and the moves of `ENV` keep. -/
theorem hostSteps_onlyMoves (he : ∀ s m, M m → J s → J (applyEnv m s)) (hsched : ∀ s x, J s → J (s.setSched x)) (hh : HostStepFree J) :
    Steps E (fun s => J s ∧ OnlyMoves M s) .host hostFrame.between where
  between := by
    rintro s ⟨hs, hm⟩
    show Ends _ _ (match s.sched with
      | [] => .ok () s
      | slot :: rest => runMoves (takeIrq irqHandler) slot (s.setSched rest))
    cases hc : s.sched with
    | nil => exact ⟨hs, hm⟩
    | cons slot rest =>
      have hslot := hm slot (by rw [hc]; exact List.mem_cons_self ..)
      show Ends _ _ (runMoves (takeIrq irqHandler) slot (s.setSched rest))
      rw [runMoves_env (fun m hmem => (hslot m hmem).1)]
      refine ⟨envMoves_onlyMoves he (fun m hmem => (hslot m hmem).2) (hsched s rest hs), fun x hx => ?_⟩
      rw [envMoves_sched] at hx
      exact hm x (by rw [hc]; exact List.mem_cons_of_mem _ hx)
  moved s path h := ⟨hh s _ h.1, h.2⟩

end

/-! ### The buffers of the IDMAs (20 R82) -/

/-- No move of the schedule stores to memory. -/
def NoStores (s : State) : Prop := ∀ slot ∈ s.sched, ∀ m ∈ slot, ∀ j bytes, m ≠ .dmaStore j bytes

/-- The address lies in no buffer of an IDMA. -/
def OutsideBuffers (s : State) (address : Nat) : Prop :=
  ∀ j, ∀ k < ((s.periph j).dlen.extractLsb' 0 25).toNat, address ≠ ((s.periph j).idmabase0.toNat + k) % 2 ^ 32

/-- The buffer of a controller is as in another state. -/
def SameBuffer (p q : Periph) : Prop := dataLength q.dlen = dataLength p.dlen ∧ q.idmabase0 = p.idmabase0

/-- `ENV` writes reserved bits of `DLEN` only (93 U23), and no buffer address. -/
theorem Periph.EnvStep.sameBuffer {p q : Periph} (h : p.EnvStep q) : SameBuffer p q := by
  cases h with
  | dynFlags flags =>
    obtain ⟨sta, hk⟩ := Periph.keepRx_eq { p with sta := (p.sta &&& ~~~dynamicFlags) ||| (flags &&& dynamicFlags) }
    rw [hk]
    exact ⟨rfl, rfl⟩
  | respond r v => cases r <;> exact ⟨rfl, rfl⟩
  | reservedBits r v =>
    cases r with
    | dlen =>
      have hres : ∀ n < 25, (reservedMask .dlen).getLsbD n = false ∧ (~~~reservedMask .dlen).getLsbD n = true := by decide
      refine ⟨congrArg BitVec.toNat (BitVec.eq_of_getLsbD_eq (fun n hn => ?_)), rfl⟩
      simp only [Periph.setReserved, BitVec.getLsbD_extractLsb', BitVec.getLsbD_or, BitVec.getLsbD_and, Nat.zero_add, (hres n hn).1, (hres n hn).2,
        Bool.and_false, Bool.and_true, Bool.or_false]
    | _ => exact ⟨rfl, rfl⟩
  | _ => exact ⟨rfl, rfl⟩

/-- A byte outside the buffer of an IDMA is not stored to. -/
theorem dmaStore_outside {address : Nat} (i : Sdmmc) (bytes : List Byte) (s : State)
    (h : ∀ k < dataLength (s.periph i).dlen, address ≠ ((s.periph i).idmabase0.toNat + k) % 2 ^ 32) :
    Memory.read address (dmaStore i bytes s).mem = Memory.read address s.mem := by
  induction bytes generalizing s with
  | nil => rfl
  | cons b rest ih =>
    by_cases hc : (s.periph i).dmaCount < dataLength (s.periph i).dlen
    · rw [dmaStore_cons hc, ih _ (by rw [State.dmaStored_periph]; exact h), State.dmaStored_mem, Memory.read_write_other (a := (s.periph i).dmaAddress 0) _ _ (h _ hc)]
    · rw [dmaStore, if_neg hc]

/-! ### What stays while a command runs -/

/-- The state is that of `s` but for the session, memory, the controllers, the schedule, the mark of a CMD55, where `HOST` stands and what it returned, and
what `ENV` may change meanwhile. -/
def Unchanged (s t : State) : Prop := t = { t with
  xfer := s.xfer, irqStep := s.irqStep, cfg := s.cfg, structs := s.structs, ssr := s.ssr, hostByte := s.hostByte, windows := s.windows
  tainted := s.tainted, stale := s.stale, program := s.program }

/-- A command of `s` runs, its mark set to `mark` once its word is written. -/
structure CommandRuns (s : State) (mark : Option Bool) (t : State) : Prop where
  unchanged : Unchanged s t
  session : t.session = { s.session with rca := t.session.rca }
  appCmd : ∀ b, mark = some b → t.appCmd = b
  buffers : ∀ j, SameBuffer (s.periph j) (t.periph j)
  noStores : NoStores s → t.mem = s.mem
  outside : ∀ address, OutsideBuffers s address → Memory.read address t.mem = Memory.read address s.mem

/-- The moves that the schedule of `s` may hold. -/
def AdmittedMove (s : State) (m : Move) : Prop := NoStores s → ∀ j bytes, m ≠ .dmaStore j bytes

/-- The words that leave the buffer of the bound controller. -/
def BufferWord (s : State) (r : Reg) (v : Word) : Prop := ∀ i, s.session.bound = some i →
  (r = .dlen → dataLength v = dataLength (s.periph i).dlen) ∧ (r = .idmabase0 → v = (s.periph i).idmabase0)

section
variable {s : State} {mark : Option Bool}

theorem bufferWord_other {r : Reg} (h1 : r ≠ .dlen) (h2 : r ≠ .idmabase0) (v : Word) : BufferWord s r v :=
  fun _ _ => ⟨fun h => absurd h h1, fun h => absurd h h2⟩

theorem commandWords_buffer : CommandWords (BufferWord s) :=
  ⟨bufferWord_other (by decide) (by decide), bufferWord_other (by decide) (by decide), bufferWord_other (by decide) (by decide)⟩

theorem sameBuffer_write {p q : Periph} (h : SameBuffer p q) {r : Reg} {v : Word} (h1 : r = .dlen → dataLength v = dataLength p.dlen)
    (h2 : r = .idmabase0 → v = p.idmabase0) : SameBuffer p (q.write r v) := by
  obtain ⟨hlen, hbase⟩ := h
  cases r with
  | dlen => exact ⟨h1 rfl, hbase⟩
  | idmabase0 => exact ⟨hlen, h2 rfl⟩
  | idmactrl =>
    obtain ⟨sta, hk⟩ := Periph.keepRx_eq
      { q with idmactrl := v, dmaCount := if v.getLsbD 0 then 0 else q.dmaCount, exhausted := q.exhausted && !v.getLsbD 0 }
    rw [Periph.write, hk]
    exact ⟨hlen, hbase⟩
  | dctrl => rw [Periph.write]; split <;> exact ⟨hlen, hbase⟩
  | _ => exact ⟨hlen, hbase⟩

theorem CommandRuns.bound {t : State} (h : CommandRuns s mark t) : t.session.bound = s.session.bound := (congrArg Session.bound h.session :)

theorem CommandRuns.setPeriph {t : State} (h : CommandRuns s mark t) (i : Sdmmc) {p : Periph} (hp : SameBuffer (s.periph i) p) :
    CommandRuns s mark (t.setPeriph i p) where
  unchanged := by cases i <;> exact congrArg (fun u : State => u.setPeriph _ p) h.unchanged
  session := by simpa using h.session
  appCmd := by simpa using h.appCmd
  buffers j := by
    by_cases hj : j = i
    · rw [hj, State.periph_setPeriph]
      exact hp
    · rw [State.periph_setPeriph_ne _ _ hj]
      exact h.buffers j
  noStores hn := by simpa using h.noStores hn
  outside a ha := by simpa using h.outside a ha

theorem CommandRuns.applyEnv {t : State} (h : CommandRuns s mark t) {m : Move} (hm : AdmittedMove s m) : CommandRuns s mark (applyEnv m t) where
  unchanged := by
    obtain ⟨p1, p2, mem, pin, delay, sent, n, he⟩ := applyEnv_same m t
    rw [he]
    exact congrArg (fun u : State => { u with sdmmc1 := p1, sdmmc2 := p2, mem := mem, pin := pin, delayRuns := delay, sent := sent, draws := n })
      h.unchanged
  session := by simpa using h.session
  appCmd := by simpa using h.appCmd
  buffers j := by
    obtain ⟨hlen, hbase⟩ := (envStep_applyEnv m t j).sameBuffer
    obtain ⟨hlen', hbase'⟩ := h.buffers j
    exact ⟨hlen.trans hlen', hbase.trans hbase'⟩
  noStores hn := by
    obtain he | ⟨i, bytes, hst, -⟩ := applyEnv_mem m t
    · exact he.trans (h.noStores hn)
    · exact absurd hst (hm hn i bytes)
  outside a ha := by
    obtain he | ⟨i, bytes, -, -, he⟩ := applyEnv_mem m t
    · rw [he, h.outside a ha]
    · obtain ⟨hlen, hbase⟩ := h.buffers i
      rw [he, dmaStore_outside i bytes t (by rw [hlen, hbase]; exact ha i), h.outside a ha]

/-- The assertion that every step of the command keeps. -/
abbrev RunsIn (s : State) (mark : Option Bool) (t : State) : Prop := CommandRuns s mark t ∧ OnlyMoves (AdmittedMove s) t

theorem runsIn_regs {i : Sdmmc} (hi : s.session.bound = some i) : Regs Never (RunsIn s mark) (BufferWord s) where
  unbound t h hn := by
    rw [h.1.bound, hi] at hn
    cases hn
  read t j r h _ := by
    refine ⟨h.1.setPeriph j ?_, by simpa [OnlyMoves] using h.2⟩
    cases r <;> exact h.1.buffers j
  value t j r h hj k hk := by
    rw [h.1.bound, hk] at hj
    cases hj
    refine ⟨?_, ?_⟩ <;> rintro rfl
    · exact (h.1.buffers j).1
    · exact (h.1.buffers j).2
  free _ := bufferWord_other (by decide) (by decide) _
  write t j r v h hj hv := by
    obtain ⟨h1, h2⟩ := hv j (h.1.bound.symm.trans hj)
    exact ⟨h.1.setPeriph j (sameBuffer_write (h.1.buffers j) h1 h2), by simpa [OnlyMoves] using h.2⟩
  draws t n h := ⟨⟨congrArg (State.setDraws · n) h.1.unchanged, h.1.session, h.1.appCmd, h.1.buffers, h.1.noStores, h.1.outside⟩, h.2⟩

theorem runsIn_steps : Steps Never (RunsIn s mark) .host hostFrame.between :=
  hostSteps_onlyMoves (fun _ _ hm h => h.applyEnv hm)
    (fun _ x h => ⟨congrArg (State.setSched · x) h.unchanged, h.session, h.appCmd, h.buffers, h.noStores, h.outside⟩)
    (fun _ x h => ⟨congrArg (State.setHostStep · x) h.unchanged, h.session, h.appCmd, h.buffers, h.noStores, h.outside⟩)

theorem CommandRuns.setAppCmd {t : State} (h : CommandRuns s mark t) (b : Bool) : CommandRuns s (some b) (t.setAppCmd b) where
  unchanged := congrArg (State.setAppCmd · b) h.unchanged
  session := h.session
  appCmd _ hb := Option.some.inj hb
  buffers := h.buffers
  noStores := h.noStores
  outside := h.outside

theorem runsIn_rcaFree : RcaFree (RunsIn s mark) := by
  rintro t x ⟨h, hm⟩
  have hsession : { t.session with rca := some x } = ({ s.session with rca := some x } : Session) :=
    congrArg (fun n : Session => { n with rca := some x }) h.session
  exact ⟨⟨congrArg (fun u : State => u.setSession { t.session with rca := some x }) h.unchanged, hsession, h.appCmd, h.buffers, h.noStores, h.outside⟩, hm⟩

/-- The whole command (40 R165). -/
theorem transmitCommand_returns {i : Sdmmc} (hi : s.session.bound = some i) (c a : Word) {rt : Int} (hadm : responseTypeAdmitted rt = true) :
    Spec Never (RunsIn s none) (transmitCommand hostFrame c a rt) (fun e => RunsIn s (some (decide (c = 55 ∧ e = .ok)))) := by
  have hb : ∀ mark, Steps Never (RunsIn s mark) .host hostFrame.between := fun _ => runsIn_steps
  have hr : ∀ mark, Regs Never (RunsIn s mark) (BufferWord s) := fun _ => runsIn_regs hi
  have hw : CommandWords (BufferWord s) := commandWords_buffer
  rw [transmitCommand, if_pos hadm]
  refine (hb none).passed (fun _ => Spec.getState_seq (fun _ _ => ?_))
  refine (regWrite_keeps (hr none) (hb none) (hw.icr _)).seq (fun _ => (regWrite_keeps (hr none) (hb none) (hw.argr _)).seq (fun _ =>
    (regRead_keeps (hr none) (hb none) .cmdr).seq (fun _ => (regWrite_keeps (hr none) (hb none) (hw.cmdr _)).seq (fun _ => ?_))))
  have hb55 := hb (some (decide (c = 55)))
  have hr55 := hr (some (decide (c = 55)))
  refine Spec.bind (R := fun _ => RunsIn s (some (decide (c = 55)))) (Spec.update (fun t h => ⟨h.1.setAppCmd _, h.2⟩)) (fun _ => hb55.passed (fun _ => ?_))
  refine (pollStatus_keeps hr55 hb55 _ _).seq (fun hit => ?_)
  refine Spec.seq (m := commandResult hostFrame hit c rt) (hb55.passed (fun _ => Spec.ite
    (fun _ => classify_keeps hr55 hb55 c (fun _ => runsIn_rcaFree) (fun _ _ hf => by rw [hadm] at hf; cases hf)) (fun _ => hb55.returned))) (fun e => ?_)
  refine (regWrite_keeps hr55 hb55 (hw.icr _)).seq (fun _ => ?_)
  refine Spec.bind (R := fun _ => RunsIn s (some (decide (c = 55 ∧ e = .ok)))) (Spec.update (fun t h => ?_)) (fun _ => ((hb _).pass _ _).bind (fun _ => Spec.pure (fun _ h => h)))
  rw [Bool.decide_and, ← h.1.appCmd _ rfl]
  exact ⟨h.1.setAppCmd _, h.2⟩

end

/-! ### The RCA of a command (40 R184) -/

/-- The commands with response type 6 are CMD3 and a `transmitCommand` of it; the others may not latch the RCA. -/
theorem commandRow_latches {n : Session} {x : Instr} {c a : Word} {rt : Int} (hrow : commandRow n x = some (c, a, rt)) :
    (rt = 6 ∧ (x = .cmd3 ∨ ∃ c a, x = .transmitCommand c a 6)) ∨ (rt ≠ 6 ∧ Instr.mayLatchRca x = false) := by
  cases x with
  | cmd3 => exact .inl ⟨by cases hrow; rfl, .inl rfl⟩
  | transmitCommand c' a' r =>
    obtain ⟨-, hrow⟩ := Option.ite_none_right_eq_some.1 hrow
    cases hrow
    by_cases h6 : r = 6
    · subst h6
      exact .inl ⟨rfl, .inr ⟨_, _, rfl⟩⟩
    · exact .inr ⟨fun h => h6 ((toInt_eq_responseType r).2.2.2.2 h), decide_eq_false h6⟩
  | cmd16 b => cases b <;> cases hrow <;> exact .inr ⟨by decide, rfl⟩
  | acmd6 w => cases w <;> cases hrow <;> exact .inr ⟨by decide, rfl⟩
  | cmd55 p =>
    cases p
    · cases hrow
      exact .inr ⟨by decide, rfl⟩
    · obtain ⟨_, -, hrow⟩ := Option.map_eq_some_iff.1 hrow
      cases hrow
      exact .inr ⟨by decide, rfl⟩
  | cmd7 | cmd9 | cmd13 | cmd17 _ | cmd18 _ | cmd24 _ | cmd25 _ | acmd41 =>
    obtain ⟨_, -, hrow⟩ := Option.map_eq_some_iff.1 hrow
    cases hrow
    exact .inr ⟨by decide, rfl⟩
  | _ => cases hrow <;> exact .inr ⟨by decide, rfl⟩

/-- A command latches the RCA only with response type 6 and the result `Ok`. -/
theorem commandRow_rca {s t : State} {x : Instr} {c a : Word} {rt : Int} (hrow : commandRow s.session x = some (c, a, rt)) (ht : exec x s = .next t)
    (h : rt ≠ 6 ∨ t.result ≠ .err .ok) : t.session.rca = s.session.rca := by
  obtain ⟨h6, hx⟩ | ⟨-, hx⟩ := commandRow_latches hrow
  · exact onlyRelativeAddressWritesRca.2.1 x s t (hx.imp_right .inl) ht (h.resolve_left (fun hne => hne h6))
  · exact onlyRelativeAddressWritesRca.1 x s t hx ht

/-- Settles O22: every step of the command keeps what it does not write, and no step stops it. -/
theorem commandsReturn : Obligations.CommandsReturn := by
  unfold Obligations.CommandsReturn
  intro s i x c a rt hrow hi hn
  obtain ⟨-, hadm⟩ := commandRow_issued hrow
  have hstart : RunsIn s none (s.enter x) := by
    refine ⟨⟨rfl, rfl, nofun, fun j => ?_, fun _ => rfl, fun _ _ => rfl⟩, fun slot hslot m hm => ⟨hn slot hslot m hm, fun h => h slot hslot m hm⟩⟩
    rw [State.enter_periph]
    exact ⟨rfl, rfl⟩
  obtain ⟨e, t, ht, ⟨hunchanged, hsession, happ, -, hnostores, houtside⟩, -⟩ := finish_completes (r := .err) (transmitCommand_returns hi c a hadm) hstart
  rw [← exec_of_commandRow hrow] at ht
  have hfield {α : Type} (f : State → α) : f t = f _ := congrArg f hunchanged
  refine ⟨e, _, ht, rfl, rfl, happ _ rfl, hsession, fun hr => ?_, hfield State.xfer, hfield State.irqStep, hfield State.cfg, hfield State.structs,
    hfield State.ssr, hfield State.hostByte, hfield State.windows, hfield State.tainted, hfield State.stale, hfield State.program, hnostores, houtside⟩
  have hrca := commandRow_rca hrow ht (hr.imp_right (fun he h => he (Result.err.inj h)))
  exact hsession.trans (congrArg (fun x : Option (BitVec 16) => { s.session with rca := x }) hrca)

end Sys2Proof.Machine

/-! SUPPORT. Runs of `HOST` over a known schedule, wherever it stands (10 R49): how they compose, the state they leave, and one rule for each kind of step
and for each kind of command. -/

namespace Sys2Proof.Machine

/-! ### Runs and halts -/

section
variable {α β : Type} {m : Act α} {f : α → Act β} {s t u : State} {a : α} {b : β} {x : Stop} {op rest : Act Err} {e : Err} {cs : List Point}
  {proc : Proc} {lines : List (Nat × Nat)}

/-- The frame of `HOST` in the calls `cs`. -/
abbrev hostIn (cs : List Point) : Frame := frameOf .host (takeIrq irqHandler) cs

/-- From `s` the steps give `a` and leave `t`, wherever `HOST` stands. -/
def Runs (m : Act α) (s : State) (a : α) (t : State) : Prop := ∀ h, ∃ h', m (s.setHostStep h) = .ok a (t.setHostStep h')

/-- From `s` the steps stop with `x` and leave `t`, wherever `HOST` stands. -/
def Halts (x : Stop) (m : Act α) (s t : State) : Prop := ∀ h, ∃ h', m (s.setHostStep h) = .error x (t.setHostStep h')

theorem Runs.pure : Runs (Pure.pure a) s a s := fun h => ⟨h, rfl⟩

theorem Runs.bind (hm : Runs m s a t) (hf : Runs (f a) t b u) : Runs (m >>= f) s b u := by
  intro h
  obtain ⟨h1, hm⟩ := hm h
  obtain ⟨h2, hf⟩ := hf h1
  exact ⟨h2, (run_bind_ok hm).trans hf⟩

theorem Runs.bind_halts (hm : Runs m s a t) (hf : Halts x (f a) t u) : Halts x (m >>= f) s u := by
  intro h
  obtain ⟨h1, hm⟩ := hm h
  obtain ⟨h2, hf⟩ := hf h1
  exact ⟨h2, (run_bind_ok hm).trans hf⟩

theorem Halts.bind (hm : Halts x m s t) : Halts x (m >>= f) s t := by
  intro h
  obtain ⟨h1, hm⟩ := hm h
  exact ⟨h1, run_bind_error hm⟩

theorem Runs.getState_bind {f : State → Act β} (hf : ∀ h, Runs (f (s.setHostStep h)) s b t) : Runs (getState >>= f) s b t := fun h => hf h h

theorem Halts.getState_bind {f : State → Act β} (hf : ∀ h, Halts x (f (s.setHostStep h)) s t) : Halts x (getState >>= f) s t := fun h => hf h h

theorem Runs.update {g : State → State} (hg : ∀ h, g (s.setHostStep h) = t.setHostStep h) : Runs (update g) s () t :=
  fun h => ⟨h, congrArg (EStateM.Result.ok ()) (hg h)⟩

theorem Runs.goto (pt : Point) : Runs ((hostIn cs).goto pt) s () s := fun h => ⟨h.goto (cs ++ [pt]), rfl⟩

theorem Runs.pass : Runs ((hostIn cs).pass proc lines) s () s := by
  induction lines with
  | nil => exact Runs.pure
  | cons p rest ih => exact (Runs.goto _).bind ih

theorem Runs.passed {k : Unit → Act β} (hk : Runs (k ()) s b t) : Runs ((hostIn cs).pass proc lines >>= k) s b t := Runs.pass.bind hk

theorem Runs.passed_halts {k : Unit → Act β} (hk : Halts x (k ()) s t) : Halts x ((hostIn cs).pass proc lines >>= k) s t := Runs.pass.bind_halts hk

theorem Runs.returned : Runs ((hostIn cs).pass proc lines >>= fun _ => Pure.pure a) s a s := Runs.passed Runs.pure

theorem Runs.of_pos {q : Prop} [Decidable q] {m' : Act α} (hq : q) (h : Runs m s a t) : Runs (if q then m else m') s a t := by rwa [if_pos hq]

theorem Runs.of_neg {q : Prop} [Decidable q] {m' : Act α} (hq : ¬q) (h : Runs m s a t) : Runs (if q then m' else m) s a t := by rwa [if_neg hq]

theorem Halts.of_pos {q : Prop} [Decidable q] {m' : Act α} (hq : q) (h : Halts x m s t) : Halts x (if q then m else m') s t := by rwa [if_pos hq]

theorem Halts.of_neg {q : Prop} [Decidable q] {m' : Act α} (hq : ¬q) (h : Halts x m s t) : Halts x (if q then m' else m) s t := by rwa [if_neg hq]

theorem Runs.thenOk (h : Runs op s .ok t) (hrest : Runs rest t e u) : Runs (thenOk op rest) s e u := h.bind hrest

theorem Runs.thenOk_stop (h : Runs op s e t) (he : e ≠ .ok) : Runs (Machine.thenOk op rest) s e t :=
  h.bind (Runs.of_neg he Runs.pure)

theorem Runs.thenOk_halts (h : Runs op s .ok t) (hrest : Halts x rest t u) : Halts x (Machine.thenOk op rest) s u := h.bind_halts hrest

theorem Halts.thenOk (h : Halts x op s t) : Halts x (thenOk op rest) s t := h.bind

theorem Runs.readOr {g : State → Option α} (hg : ∀ h, g (s.setHostStep h) = some a) : Runs (readOr g) s a s := fun h => ⟨h, run_readOr (hg h)⟩

theorem Halts.readOr {g : State → Option α} (hg : ∀ h, g (s.setHostStep h) = none) : Halts (.fault .unwrittenSession) (readOr g) s s :=
  fun h => ⟨h, run_readOr_none (hg h)⟩

theorem Runs.readRcaArg {rca : BitVec 16} (h : s.session.rca = some rca) : Runs readRcaArg s (rcaArgument rca) s := (Runs.readOr (fun _ => h)).bind Runs.pure

theorem Halts.readRcaArg (h : s.session.rca = none) : Halts (.fault .unwrittenSession) readRcaArg s s := Halts.bind (Halts.readOr (fun _ => h))

theorem Runs.readCardType {c : CardType} (h : s.session.cardType = some c) : Runs readCardType s c s := Runs.readOr (fun _ => h)

theorem Runs.sessionWrite {pt : Point} (g : Session → Session) : Runs (sessionWrite (hostIn cs) pt g) s () (s.setSession (g s.session)) :=
  (Runs.goto pt).bind (Runs.update (fun _ => rfl))

theorem Runs.onlyIf_false {k : Act Unit} : Runs (onlyIf false k) s () s := Runs.pure

theorem Runs.onlyIf_true {k : Act Unit} (h : Runs k s () t) : Runs (onlyIf true k) s () t := h

/-! ### The outcome of a call -/

theorem Runs.conclude {r : α → Result} (h : Runs m s a t) : conclude r m s = .next (t.setReturn .idle (r a)) := by
  obtain ⟨h', hm⟩ := h s.hostStep
  exact (conclude_ok hm :)

theorem Runs.finish {i : Instr} {r : α → Result} (h : Runs m s a t) : finish i r m s = .next (t.setReturn .idle (r a)) := by
  obtain ⟨h', hm⟩ := h (.inside (.call i) [])
  exact (conclude_ok hm :)

theorem Halts.finish_fault {i : Instr} {r : α → Result} {q : Fault} (h : Halts (.fault q) m s t) : Machine.finish i r m s = .fault q := by
  obtain ⟨h', hm⟩ := h (.inside (.call i) [])
  exact conclude_fault hm

theorem Halts.finish_hold {i : Instr} {r : α → Result} {p : Place} (h : Halts (.hold p) m s t) :
    Machine.finish i r m s = .next (t.setHostStep (.inside p p.path)) := by
  obtain ⟨h', hm⟩ := h (.inside (.call i) [])
  exact (conclude_hold hm :)

theorem Halts.conclude_hold {r : α → Result} {p : Place} (h : Halts (.hold p) m s t) : Machine.conclude r m s = .next (t.setHostStep (.inside p p.path)) := by
  obtain ⟨h', hm⟩ := h s.hostStep
  exact (Machine.conclude_hold hm :)

end

/-! ### What the steps on the bound controller leave -/

/-- `s` with the schedule used up to `rest`, the controller `p`, the session `n` and the mark `c` of an accepted CMD55. -/
def State.left (s : State) (i : Sdmmc) (rest : List (List Move)) (p : Periph) (n : Session) (c : Bool) : State :=
  (((s.setSched rest).setPeriph i p).setSession n).setAppCmd c

section
variable {s : State} {i : Sdmmc} {rest y : List (List Move)} {p q : Periph} {n k : Session} {c d : Bool} {x : Transfer} {h : HostStep}

@[simp] theorem State.left_self (s : State) (i : Sdmmc) : s.left i s.sched (s.periph i) s.session s.appCmd = s := by cases i <;> rfl
@[simp] theorem State.left_cfg : (s.left i rest p n c).cfg = s.cfg := by cases i <;> rfl
@[simp] theorem State.left_session : (s.left i rest p n c).session = n := by cases i <;> rfl
@[simp] theorem State.left_xfer : (s.left i rest p n c).xfer = s.xfer := by cases i <;> rfl
@[simp] theorem State.left_sched : (s.left i rest p n c).sched = rest := by cases i <;> rfl
@[simp] theorem State.left_draws : (s.left i rest p n c).draws = s.draws := by cases i <;> rfl
@[simp] theorem State.left_delayRuns : (s.left i rest p n c).delayRuns = s.delayRuns := by cases i <;> rfl
@[simp] theorem State.left_ssr : (s.left i rest p n c).ssr = s.ssr := by cases i <;> rfl
@[simp] theorem State.left_structs : (s.left i rest p n c).structs = s.structs := by cases i <;> rfl
@[simp] theorem State.left_appCmd : (s.left i rest p n c).appCmd = c := by cases i <;> rfl
@[simp] theorem State.left_periph : (s.left i rest p n c).periph i = p := by cases i <;> rfl
@[simp] theorem State.left_left : (s.left i rest p n c).left i y q k d = s.left i y q k d := by cases i <;> rfl
@[simp] theorem State.left_setSession : (s.left i rest p n c).setSession k = s.left i rest p k c := by cases i <;> rfl

theorem controllerOnly_left (r : Result) : ControllerOnly i rest r s ((s.left i rest p n c).setReturn .idle r) := by cases i <;> rfl

end

/-- A run from the state as it is. -/
theorem Runs.start {α : Type} {m : Act α} {a : α} {s t : State} {x : List (List Move)} (i : Sdmmc) (hs : s.sched = x)
    (h : Runs m (s.left i x (s.periph i) s.session s.appCmd) a t) : Runs m s a t := by
  subst hs
  rwa [State.left_self] at h

theorem Halts.start {α : Type} {m : Act α} {e : Stop} {s t : State} {x : List (List Move)} (i : Sdmmc) (hs : s.sched = x)
    (h : Halts e m (s.left i x (s.periph i) s.session s.appCmd) t) : Halts e m s t := by
  subst hs
  rwa [State.left_self] at h

/-- A call that returns after steps on the bound controller. -/
theorem Runs.returns {α : Type} {op : Act α} {a : α} {s : State} {i : Sdmmc} {x rest : List (List Move)} {p : Periph} {n : Session} {c : Bool}
    (hs : s.sched = x) (h : Runs op (s.left i x (s.periph i) s.session s.appCmd) a (s.left i rest p n c)) (call : Instr) (r : α → Result) :
    ∃ t, Machine.finish call r op s = .next t ∧ ControllerOnly i rest (r a) s t ∧ t.session = n ∧ t.periph i = p :=
  ⟨_, (h.start i hs).finish, controllerOnly_left _, by simp, by simp⟩

/-! ### Steps -/

section
variable {s : State} {i : Sdmmc} {x rest : List (List Move)} {p : Periph} {n : Session} {c : Bool} {cs : List Point} {pt : Point}

theorem step_left (hq : x.headD [] = []) : Runs ((hostIn cs).step pt) (s.left i x p n c) () (s.left i x.tail p n c) := fun h =>
  ⟨h.goto (cs ++ [pt]), (step_quiet (by simpa using hq)).trans (by cases i <;> rfl)⟩

/-- A read of a register of the bound controller, where nothing else steps. -/
theorem regRead_left (hi : n.bound = some i) (hq : x.headD [] = []) {r : Reg} (hr : r ≠ .fifo) :
    Runs (regRead (hostIn cs) pt r) (s.left i x p n c) (p.value r) (s.left i x.tail p n c) := fun h =>
  ⟨h.goto (cs ++ [pt]), (regRead_quiet (i := i) (by simpa using hq) (by simpa using hi) hr).trans (by cases i <;> rfl)⟩

/-- A write of one. -/
theorem regWrite_left (hi : n.bound = some i) (hq : x.headD [] = []) (r : Reg) (v : Word) :
    Runs (regWrite (hostIn cs) pt r v) (s.left i x p n c) () (s.left i x.tail (p.write r v) n c) := fun h =>
  ⟨h.goto (cs ++ [pt]), (regWrite_quiet (i := i) (by simpa using hq) (by simpa using hi) r v).trans (by cases i <;> rfl)⟩

theorem regSet_left (hi : n.bound = some i) {r : Reg} (hr : r ≠ .fifo) (m : Word) (proc : Proc) (line : Nat) :
    Runs (regSet (hostIn cs) proc line r m) (s.left i ([] :: [] :: rest) p n c) () (s.left i rest (p.write r (p.value r ||| m)) n c) :=
  (regRead_left hi rfl hr).bind (regWrite_left hi rfl _ _)

theorem sessionWrite_left (g : Session → Session) : Runs (sessionWrite (hostIn cs) pt g) (s.left i x p n c) () (s.left i x p (g n) c) := by
  have hw := Runs.sessionWrite (s := s.left i x p n c) (cs := cs) (pt := pt) g
  rwa [State.left_setSession, State.left_session] at hw

theorem capture_left (hi : n.bound = some i) {r : Reg} (hr : r ≠ .fifo) (g : Word → Session → Session) :
    Runs (capture (hostIn cs) pt r g) (s.left i ([] :: rest) p n c) () (s.left i rest p (g (p.value r) n) c) :=
  (regRead_left hi rfl hr).bind (sessionWrite_left _)

/-! ### Commands -/

/-- An index is the index field of its response register. -/
theorem and_index {command : Word} (hc : command.toNat < 64) : command &&& 0x3F = command :=
  BitVec.eq_of_toNat_eq (by rw [BitVec.toNat_and]; exact (Nat.and_two_pow_sub_one_eq_mod _ 6).trans (Nat.mod_eq_of_lt hc))

variable {command : Word} {flags : Word} {e : Err}

/-- A command of type 1 that the card answers. -/
theorem command_left (hi : n.bound = some i) (hc : command.toNat < 64) (a response : Word) :
    Runs (transmitCommand (hostIn cs) command a 1) (s.left i (shortScript i command response ++ rest) p n c) (decodeCardStatus response)
      (s.left i rest (p.answeredShort s.clearMask command a 1 command response) n (command = 55 && decodeCardStatus response = .ok)) := fun h =>
  ⟨h.goto (atEnd cs), (transmit_r1 (i := i) (rest := rest) (index := command) (response := response) (by simpa using hi) hc a (by simp)
    (and_index hc)).trans (by cases i <;> rfl)⟩

/-- One that it accepts. -/
theorem accepted_left (hi : n.bound = some i) (hc : command.toNat < 64) (a : Word) {response : Word} (hr : decodeCardStatus response = .ok) :
    Runs (transmitCommand (hostIn cs) command a 1) (s.left i (shortScript i command response ++ rest) p n c) .ok
      (s.left i rest (p.answeredShort s.clearMask command a 1 command response) n (command = 55)) := by
  have h := command_left (s := s) (rest := rest) (p := p) (c := c) (cs := cs) hi hc a response
  rwa [hr, decide_eq_true rfl, Bool.and_true] at h

/-- A command with a short response whose flags decide. -/
theorem flagged_left (hi : n.bound = some i) (hc : command.toNat < 64) (a : Word) {rt : Int} (hadm : responseTypeAdmitted rt = true) (hrt : 0 < rt)
    (h2 : rt ≠ 2) (index response : Word) (hf : hasFlag flags respWait = true) (he : classifyFlags (flags &&& respWait) rt = some e) :
    Runs (transmitCommand (hostIn cs) command a rt) (s.left i (quiet 4 ++ shortAnswer i index response flags :: [] :: [] :: rest) p n c) e
      (s.left i rest (p.answeredShort s.clearMask command a rt index response) n (command = 55 && e = .ok)) := fun h =>
  ⟨h.goto (atEnd cs), (transmit_flagged (i := i) (rest := rest) (k := 0) (index := index) (response := response) (by simpa using hi) hc a hadm hrt h2 (Nat.zero_le _) (by simp) hf he).trans
    (by cases i <;> rfl)⟩

/-- A command of type 6 whose response has no error bit. -/
theorem addressed_left (hi : n.bound = some i) (hc : command.toNat < 64) (a : Word) {response : Word} (hz : response &&& r6ErrorBits = 0) :
    Runs (transmitCommand (hostIn cs) command a 6) (s.left i (shortScript i command response ++ rest) p n c) .ok
      (s.left i rest (p.answeredShort s.clearMask command a 6 command response) { n with rca := some (response.extractLsb' 16 16) } (command = 55)) :=
  fun h => ⟨h.goto (atEnd cs), (transmit_r6 (i := i) (rest := rest) (index := command) (response := response) (by simpa using hi) hc a (by simp)
    (and_index hc) hz).trans (by cases i <;> rfl)⟩

/-- The steps after the wait for a response of type 6 with an error bit: the RCA stays (40 R180). -/
theorem afterWait_r6Error {t : State} (hs : t.sched = [] :: [] :: [] :: [] :: rest) (hi : t.session.bound = some i) (clear : Word)
    (hf : classifyFlags (t.periph i).sta 6 = none) (hx : ((t.periph i).respcmdr &&& 0x3F) = command) (hz : (t.periph i).resp1 &&& r6ErrorBits ≠ 0) :
    afterWait (hostIn cs) clear command 6 t = .ok (r6Error (t.periph i).resp1) ((((t.setSched rest).setPeriph i
      ((t.periph i).write .icr clear)).setAppCmd (t.appCmd && r6Error (t.periph i).resp1 = .ok)).moved .host (atEnd cs)) := by
  have hresult : ∃ path, commandResult (hostIn cs) true command 6 t = .ok (r6Error (t.periph i).resp1) ((t.setSched ([] :: rest)).moved .host path) := by
    rw [commandResult_hit, classify_echoed (i := i) (rest := [] :: rest) (by simpa using hs) (by simpa using hi) (by decide) (by simpa using hf)
      (by simpa using hx), if_neg (by decide), run_pass_bind, State.moved_periph, decodeR6, run_pass_bind, if_neg hz, run_pass_bind]
    exact ⟨_, by simp; rfl⟩
  obtain ⟨path, hresult⟩ := hresult
  rw [afterWait, closeCommand_quiet (i := i) hresult (by simp) (by simpa using hi)]
  simp

/-- A command of type 6 whose response has an error bit. -/
theorem transmit_r6Error {u : State} (hi : u.session.bound = some i) (hc : command.toNat < 64) (a : Word) {response : Word}
    (hs : u.sched = shortScript i command response ++ rest) (hz : response &&& r6ErrorBits ≠ 0) : transmitCommand (hostIn cs) command a 6 u =
      .ok (r6Error response) ((((u.setSched rest).setPeriph i ((u.periph i).answeredShort u.clearMask command a 6 command response)).setAppCmd
        (command = 55 && r6Error response = .ok)).moved .host (atEnd cs)) := by
  have hs' : u.sched = quiet (4 + 0) ++ shortAnswer i command response cmdrend :: ([] :: [] :: [] :: [] :: rest) := hs
  rw [transmitCommand, if_pos (by decide)]
  rw [transmit_short (f := takeIrq irqHandler) hi hc a (by decide) (by decide) (by decide) (Nat.zero_le _) hs' (by decide)]
  have hsta : classifyFlags (((u.periph i).responded u.clearMask command a 6 command response cmdrend).sta) 6 = none := by
    show classifyFlags (((u.periph i).sta &&& ~~~clearSetMask u.cfg.clearSet) ||| (cmdrend &&& respWait)) 6 = none
    rw [classifyFlags_of_answer]
    decide
  rw [afterWait_r6Error (i := i) (rest := rest) (by simp) (by simpa using hi) u.clearMask (by simpa using hsta)
    (by simpa [Periph.responded, Periph.answeredShort] using and_index hc) (by simpa [Periph.responded, Periph.answeredShort] using hz)]
  simp [State.clearMask, responded_clear, State.setPeriph_setSched]

theorem misaddressed_left (hi : n.bound = some i) (hc : command.toNat < 64) (a : Word) {response : Word} (hz : response &&& r6ErrorBits ≠ 0) :
    Runs (transmitCommand (hostIn cs) command a 6) (s.left i (shortScript i command response ++ rest) p n c) (r6Error response)
      (s.left i rest (p.answeredShort s.clearMask command a 6 command response) n (command = 55 && r6Error response = .ok)) := fun h =>
  ⟨h.goto (atEnd cs), (transmit_r6Error (i := i) (rest := rest) (response := response) (by simpa using hi) hc a (by simp) hz).trans
    (by cases i <;> rfl)⟩

/-- A command with a long response. -/
theorem long_left (hi : n.bound = some i) (hc : command.toNat < 64) (a : Word) (x : Reg128) (hf : hasFlag flags respWait = true)
    (he : classifyFlags (flags &&& respWait) 2 = some e) :
    Runs (transmitCommand (hostIn cs) command a 2) (s.left i (quiet 4 ++ longAnswer i x flags :: [] :: [] :: rest) p n c) e
      (s.left i rest (p.answeredLong s.clearMask command a 2 x) n (command = 55 && e = .ok)) := fun h =>
  ⟨h.goto (atEnd cs), (transmit_long (i := i) (rest := rest) (k := 0) (x := x) (by simpa using hi) hc a (Nat.zero_le _) (by simp) hf he).trans
    (by cases i <;> rfl)⟩

/-- A command without a response. -/
theorem sent_left (hi : n.bound = some i) (hc : command.toNat < 64) (a : Word) :
    Runs (transmitCommand (hostIn cs) command a 0) (s.left i (sentScript i ++ rest) p n c) .ok
      (s.left i rest (p.commanded s.clearMask command a 0).ended n (command = 55)) := fun h =>
  ⟨h.goto (atEnd cs), (transmit_sent (i := i) (rest := rest) (k := 0) (by simpa using hi) hc a (Nat.zero_le _) (by simp [sentScript, quiet])).trans
    (by cases i <;> rfl)⟩

/-- A command that nothing answers. -/
theorem silent_left (hi : n.bound = some i) (hc : command.toNat < 64) (a : Word) {rt : Int} (hadm : responseTypeAdmitted rt = true) :
    Runs (transmitCommand (hostIn cs) command a rt) (s.left i [] p n c) .timeout (s.left i [] (p.commanded s.clearMask command a rt) n false) := fun h =>
  ⟨h.goto (atEnd cs), (transmit_silent (i := i) (by simpa using hi) hc a hadm (by simp)).trans (by cases i <;> rfl)⟩

/-! ### The registers of a command (40 R160) -/

theorem CommandRegistersOnly.refl (p : Periph) : CommandRegistersOnly p p := rfl

theorem CommandRegistersOnly.trans {q r : Periph} (h : CommandRegistersOnly p q) (h' : CommandRegistersOnly q r) : CommandRegistersOnly p r := by
  rw [CommandRegistersOnly, h', h]

theorem CommandSent.ended {a : Word} {q : Periph} (h : CommandSent command a p q) : CommandSent command a p q.ended where
  registers := h.registers.trans rfl
  argr := h.argr
  index := by
    have hbit : ∀ n < 6, (~~~cpsmen).getLsbD n = true := by decide
    rw [← h.index]
    exact BitVec.eq_of_getLsbD_eq (fun n hn => by simp [Periph.ended, hbit n hn])
  cmdtrans := by
    have hbit : (~~~cpsmen).getLsbD 6 = true := by decide
    rw [← h.cmdtrans, Periph.ended, BitVec.getLsbD_and, hbit, Bool.and_true]
  flags := h.flags

theorem commandSent_answeredLong (p : Periph) (clear : Word) (hc : command.toNat < 64) (a : Word) (rt : Int) (x : Reg128) :
    CommandSent command a p (p.answeredLong clear command a rt x) := by
  have h := (commandSent_commanded p clear hc a rt).ended
  exact ⟨h.registers.trans rfl, h.argr, h.index, h.cmdtrans, h.flags⟩

end

end Sys2Proof.Machine

/-! SUPPORT. initializeCard over its script: the captures of CID, RCA and CSD, and how it fails (41 R210 to R216). -/

namespace Sys2Proof.Machine

section
variable {s : State} {i : Sdmmc} {rest : List (List Move)} {p : Periph} {n : Session} {c : Bool} {cs : List Point} {x cid csd : Reg128} {rca : BitVec 16}
  {response : Word} {t0 : CardType}

/-- The four words of a long response: bit 0 of the last reads 0 (10 R36). -/
def Reg128.received (x : Reg128) : Reg128 := { x with w3 := x.w3 &&& ~~~1 }

/-- The four reads of a capture. -/
theorem captureWords_left (hi : n.bound = some i) {store : Fin 4 → Word → Session → Session} (hstore : ∀ k v m, (store k v m).bound = m.bound)
    (line : Nat) : Runs (captureWords (hostIn cs) line store) (s.left i ([] :: [] :: [] :: [] :: rest) p n c) ()
      (s.left i rest p (store 3 p.resp4 (store 2 p.resp3 (store 1 p.resp2 (store 0 p.resp1 n)))) c) := by
  have h0 : (store 0 p.resp1 n).bound = some i := (hstore ..).trans hi
  have h1 : (store 1 p.resp2 (store 0 p.resp1 n)).bound = some i := (hstore ..).trans h0
  have h2 : (store 2 p.resp3 (store 1 p.resp2 (store 0 p.resp1 n))).bound = some i := (hstore ..).trans h1
  exact (capture_left hi (by decide) _).bind ((capture_left h0 (by decide) _).bind ((capture_left h1 (by decide) _).bind
    (capture_left h2 (by decide) _)))

/-- A command with a long response, over the script of its capture. -/
theorem longAnswered_left {command : Word} (hi : n.bound = some i) (hc : command.toNat < 64) (a : Word) (x : Reg128) :
    Runs (transmitCommand (hostIn cs) command a 2) (s.left i (captureScript i x ++ rest) p n c) .ok
      (s.left i ([] :: [] :: [] :: [] :: rest) (p.answeredLong s.clearMask command a 2 x) n (command = 55)) := by
  have h := long_left (s := s) (rest := [] :: [] :: [] :: [] :: rest) (p := p) (c := c) (cs := cs) (flags := cmdrend) (e := .ok) hi hc a x (by decide)
    (by decide)
  rwa [decide_eq_true rfl, Bool.and_true] at h

/-- CMD9 and the capture of the CSD. -/
theorem captureCsd_left (hi : n.bound = some i) (hrca : n.rca = some rca) (x : Reg128) :
    Runs (captureCsd (hostIn cs)) (s.left i (captureScript i x ++ rest) p n c) .ok
      (s.left i rest (p.answeredLong s.clearMask 9 (rcaArgument rca) 2 x) { n with csd := .written x.received } false) :=
  (Runs.readRcaArg (by simpa using hrca)).bind ((longAnswered_left hi (by decide) _ x).thenOk
    ((captureWords_left hi (store := storeCsd) (fun _ _ _ => rfl) _).bind Runs.returned))

/-- A failing CMD9. -/
theorem captureCsd_fails (hrca : n.rca = some rca) {e : Err} {t : State} (he : e ≠ .ok)
    (h : Runs (transmitCommand (hostIn (cs ++ [⟨.initializeCard, 7, 0⟩])) 9 (rcaArgument rca) 2) (s.left i rest p n c) e t) :
    Runs (captureCsd (hostIn cs)) (s.left i rest p n c) e t :=
  (Runs.readRcaArg (by simpa using hrca)).bind (h.thenOk_stop he)

/-- What follows the capture of the CID. -/
def afterCid (b : Frame) : Act Err := do
  let t ← readCardType
  b.pass .initializeCard [(5, 0)]
  if sdFamily t then thenOk (transmitCommand (b.call ⟨.initializeCard, 6, 0⟩) 3 0 6) (captureCsd b) else captureCsd b

/-- `initializeCard` of a powered card begins with CMD2. -/
theorem initializeCard_powered (hi : n.bound = some i) (hp : p.power.extractLsb' 0 2 ≠ 0) {x : List (List Move)} (hq : x.headD [] = []) {e : Err}
    {t : State} (h : Runs (thenOk (transmitCommand (hostIn (cs ++ [⟨.initializeCard, 2, 0⟩])) 2 0 2) (do
      captureWords (hostIn cs) 3 storeCid
      afterCid (hostIn cs))) (s.left i x.tail p n c) e t) : Runs (initializeCard (hostIn cs)) (s.left i x p n c) e t :=
  (regRead_left hi hq (by decide)).bind (Runs.of_neg hp h)

/-- The capture of the CID. -/
theorem initializeCard_captured (hi : n.bound = some i) (hp : p.power.extractLsb' 0 2 ≠ 0) {e : Err} {t : State}
    (h : Runs (afterCid (hostIn cs)) (s.left i rest (p.answeredLong s.clearMask 2 0 2 cid) { n with cid := .written cid.received } false) e t) :
    Runs (initializeCard (hostIn cs)) (s.left i (quiet 1 ++ captureScript i cid ++ rest) p n c) e t :=
  initializeCard_powered hi hp (x := [] :: (captureScript i cid ++ rest)) rfl ((longAnswered_left hi (by decide) _ cid).thenOk
    ((captureWords_left hi (store := storeCid) (fun _ _ _ => rfl) _).bind h))

/-- For the SD family CMD3 follows, then the CSD is captured. -/
theorem afterCid_family {x : List (List Move)} (ht : n.cardType = some t0) (hf : sdFamily t0 = true) {e : Err} {t : State}
    (h : Runs (thenOk (transmitCommand (hostIn (cs ++ [⟨.initializeCard, 6, 0⟩])) 3 0 6) (captureCsd (hostIn cs))) (s.left i x p n c) e t) :
    Runs (afterCid (hostIn cs)) (s.left i x p n c) e t :=
  (Runs.readCardType (by simpa using ht)).bind (Runs.passed (Runs.of_pos hf h))

/-- Another card gets no CMD3. -/
theorem afterCid_other {x : List (List Move)} (ht : n.cardType = some t0) (hf : sdFamily t0 = false) {e : Err} {t : State}
    (h : Runs (captureCsd (hostIn cs)) (s.left i x p n c) e t) : Runs (afterCid (hostIn cs)) (s.left i x p n c) e t :=
  (Runs.readCardType (by simpa using ht)).bind (Runs.passed (Runs.of_neg (by simp [hf]) h))

/-- The card types of the SD family (41 R213). -/
theorem sdFamily_of (h : t0 = .standardV1_1 ∨ t0 = .standardV2_0 ∨ t0 = .highCapacity ∨ t0 = .secureDigitalIOCombo) : sdFamily t0 = true := by
  obtain rfl | rfl | rfl | rfl := h <;> rfl

/-- The controller after the three commands of an identification. -/
def Periph.identified (p : Periph) (clear : Word) (cid csd : Reg128) (r6 : Word) : Periph :=
  ((p.answeredLong clear 2 0 2 cid).answeredShort clear 3 0 6 3 r6).answeredLong clear 9 (rcaArgument (r6.extractLsb' 16 16)) 2 csd

/-- `initializeCard` of a card of the SD family. -/
theorem initializeCard_identifies (hi : n.bound = some i) (hp : p.power.extractLsb' 0 2 ≠ 0) (ht : n.cardType = some t0) (hf : sdFamily t0 = true)
    {r6 : Word} (hz : r6 &&& r6ErrorBits = 0) : Runs (initializeCard (hostIn cs)) (s.left i (identifyScript i cid csd r6 ++ rest) p n c) .ok
      (s.left i rest (p.identified s.clearMask cid csd r6)
        { n with cid := .written cid.received, csd := .written csd.received, rca := some (r6.extractLsb' 16 16) } false) := by
  rw [identifyScript, List.append_assoc, List.append_assoc]
  exact initializeCard_captured hi hp (afterCid_family (by exact ht) hf ((addressed_left (by exact hi) (by decide) 0 hz).thenOk
    (captureCsd_left (by exact hi) rfl csd)))

theorem commandRegistersOnly_identified (p : Periph) (clear : Word) (cid csd : Reg128) (r6 : Word) :
    CommandRegistersOnly p (p.identified clear cid csd r6) :=
  (commandSent_answeredLong p clear (by decide) 0 2 cid).registers.trans ((commandSent_answeredShort _ clear (by decide) 0 6 3 r6).registers.trans
    (commandSent_answeredLong _ clear (by decide) _ 2 csd).registers)

end

/-- Settles O34: each capture stores the four words of its response. -/
theorem initializeCardCaptures : Obligations.InitializeCardCaptures := by
  unfold Obligations.InitializeCardCaptures
  intro s i t0 cid csd r6 rest hi ht hp
  refine ⟨fun hfam hz hs => ?_, fun hother rca hrca hs => ?_⟩
  · obtain ⟨t, hexec, honly, hsession, hperiph⟩ := Runs.returns hs (initializeCard_identifies (cs := []) hi hp ht (sdFamily_of hfam) hz) .initializeCard .err
    refine ⟨t, hexec, honly, hsession, ?_, ?_⟩
    · rw [hperiph]
      exact commandRegistersOnly_identified ..
    · rw [hperiph]
      exact (commandSent_answeredLong _ s.clearMask (by decide) _ 2 csd).argr.trans (rcaArgument_eq _)
  · have hf : sdFamily t0 = false := by obtain rfl | rfl := hother <;> rfl
    rw [List.append_assoc] at hs
    obtain ⟨t, hexec, honly, hsession, -⟩ := Runs.returns hs (initializeCard_captured (cs := []) hi hp (afterCid_other (by exact ht) hf (captureCsd_left (rca := rca) (by exact hi) (by exact hrca) csd)))
      .initializeCard .err
    exact ⟨t, hexec, honly, hsession⟩

/-! ### Failures (41 R211 to R216) -/

/-- `initializeCard` returns the error `e` of a command, which left the controller `q`. -/
theorem initializeCard_fails {s : State} {i : Sdmmc} {x rest : List (List Move)} {e : Err} {p q : Periph} {n : Session} {c : Bool} {command a : Word}
    (hs : s.sched = x) (h : Runs (initializeCard hostFrame) (s.left i x (s.periph i) s.session s.appCmd) e (s.left i rest q n c))
    (hp : CommandRegistersOnly (s.periph i) p) (hq : CommandSent command a p q) : ∃ t, exec .initializeCard s = .next t ∧
      ControllerOnly i rest (.err e) s t ∧ t.session = n ∧ CommandRegistersOnly (s.periph i) (t.periph i) ∧
      (t.periph i).cmdr.extractLsb' 0 6 = command.extractLsb' 0 6 := by
  obtain ⟨t, hexec, honly, hsession, hperiph⟩ := Runs.returns hs h .initializeCard .err
  rw [← hperiph] at hq
  exact ⟨t, hexec, honly, hsession, hp.trans hq.registers, hq.index⟩

section
variable {s : State} {i : Sdmmc} {rest : List (List Move)} {p : Periph} {n : Session} {c : Bool} {cs : List Point} {cid csd : Reg128} {r6 : Word} {t0 : CardType}

/-- A powered-off controller. -/
theorem initializeCard_off (hi : n.bound = some i) (hp : p.power.extractLsb' 0 2 = 0) :
    Runs (initializeCard (hostIn cs)) (s.left i ([] :: rest) p n c) .requestNotApplicable (s.left i rest p n c) :=
  (regRead_left hi rfl (by decide)).bind (Runs.of_pos hp Runs.returned)

/-- CMD2 gives an error. -/
theorem initializeCard_cmd2 (hi : n.bound = some i) (hp : p.power.extractLsb' 0 2 ≠ 0) {x : List (List Move)} (hq : x.headD [] = []) {e : Err}
    {t : State} (he : e ≠ .ok) (h : Runs (transmitCommand (hostIn (cs ++ [⟨.initializeCard, 2, 0⟩])) 2 0 2) (s.left i x.tail p n c) e t) :
    Runs (initializeCard (hostIn cs)) (s.left i x p n c) e t := initializeCard_powered hi hp hq (h.thenOk_stop he)

end

/-- Settles O35: a failing command ends the operation, and the captures before it stand. -/
theorem initializeCardFailures : Obligations.InitializeCardFailures := by
  unfold Obligations.InitializeCardFailures
  intro s i t0 cid csd r6 rest hi
  refine ⟨fun hoff hs => ?_, fun hp => ⟨fun hs => ?_, fun hs => ?_, fun ht hfam => ⟨fun hz hs => ?_, fun hz hs => ?_⟩⟩⟩
  · refine ((initializeCard_off (cs := []) (rest := rest) hi hoff).start i hs).finish.trans ?_
    cases i <;> rfl
  · exact initializeCard_fails hs (initializeCard_cmd2 (cs := []) hi hp rfl nofun (silent_left hi (by decide) 0 (by decide))) (.refl _)
      (commandSent_commanded _ _ (by decide) _ _)
  · exact initializeCard_fails (x := [] :: (quiet 4 ++ longAnswer i cid ccrcfail :: [] :: [] :: rest)) hs (initializeCard_cmd2 (cs := []) hi hp rfl nofun (long_left hi (by decide) 0 cid (by decide) (by decide))) (.refl _)
      (commandSent_answeredLong _ _ (by decide) _ _ _)
  · rw [List.append_assoc] at hs
    exact initializeCard_fails hs (initializeCard_captured (cs := []) hi hp (afterCid_family (by exact ht) (sdFamily_of hfam)
      ((misaddressed_left (by exact hi) (by decide) 0 hz).thenOk_stop (r6Error_ne_ok r6))))
      (commandSent_answeredLong _ _ (by decide) _ _ _).registers (commandSent_answeredShort _ _ (by decide) _ _ _ _)
  · have hs' : s.sched = quiet 1 ++ captureScript i cid ++ (shortScript i 3 r6 ++ (quiet 4 ++ longAnswer i csd ccrcfail :: [] :: [] :: rest)) := by
      rw [hs]
      simp [quiet]
    have hlong := long_left (s := s) (i := i) (rest := rest) (p := ((s.periph i).answeredLong s.clearMask 2 0 2 cid).answeredShort s.clearMask 3 0 6 3 r6)
      (n := { s.session with cid := .written cid.received, rca := some (r6.extractLsb' 16 16) }) (c := false) (cs := [⟨.initializeCard, 7, 0⟩])
      (flags := ccrcfail) (e := .crcFail) (command := 9) hi (by decide) (rcaArgument (r6.extractLsb' 16 16)) csd (by decide) (by decide)
    exact initializeCard_fails hs' (initializeCard_captured (cs := []) hi hp (afterCid_family (by exact ht) (sdFamily_of hfam)
      ((addressed_left (by exact hi) (by decide) 0 hz).thenOk (captureCsd_fails rfl nofun hlong))))
      ((commandSent_answeredLong _ _ (by decide) _ _ _).registers.trans (commandSent_answeredShort _ _ (by decide) _ _ _ _).registers)
      (commandSent_answeredLong _ _ (by decide) _ _ _)

end Sys2Proof.Machine

/-! SUPPORT. powerOn over its script: the probe, the trials, and how they end (41 R203 to R209). -/

namespace Sys2Proof.Machine

/-- The session once `powerOn` has probed the interface (41 R205, R206). -/
def Session.probed (n : Session) (answers : Bool) : Session := { n with
  powered := true
  cardType := some (if answers then .standardV2_0 else .standardV1_1)
  capArg := some (if answers then 0x40000000 else 0) }

/-- The controller once the power is on and CMD0 and CMD8 were sent. -/
def Periph.probed (p : Periph) (clear : Word) : Periph :=
  ((p.write .power (p.power ||| 3)).commanded clear 0 0 0).ended.answeredShort clear 8 checkPattern 3 63 checkPattern

/-- The controller after one trial of the operating condition (41 R207). -/
def Periph.tried (clear status capArg : Word) (p : Periph) (ocr : Word) : Periph :=
  (p.answeredShort clear 55 0 1 55 status).answeredShort clear 41 (acmd41Argument capArg) 3 63 ocr

/-- `powerOn` from its first CMD55 on, with `k` trials (41 R207). -/
def negotiate (b : Frame) (k : Nat) : Act Err :=
  thenOk (transmitCommand (b.call ⟨.powerOn, 10, 0⟩) 55 0 1) (do
    b.pass .powerOn [(11, 0), (11, 1)]
    voltageTrials b k)

section
variable {s t : State} {i : Sdmmc} {rest : List (List Move)} {p : Periph} {n : Session} {c : Bool} {cs : List Point} {pt : Point} {e : Err}
  {status capArg ocr : Word}

/-- A `Delay` whose collaborator returns at once. -/
theorem delay_left (hd : s.delayRuns = false) (caller : PowerCaller) (ms : Nat) :
    Runs (delay (hostIn cs) pt caller ms) (s.left i ([] :: rest) p n c) () (s.left i rest p n c) :=
  Runs.getState_bind (fun _ => (step_left rfl).bind (Runs.getState_bind (fun _ => Runs.of_neg (by simp [hd]) Runs.pure)))

/-- CMD8, answered or timed out (41 R206). -/
theorem interfaceProbe_left (hi : n.bound = some i) (answers : Bool) : Runs (interfaceProbe (hostIn cs))
    (s.left i (quiet 4 ++ shortAnswer i 63 checkPattern (if answers then cmdrend else ctimeout) :: [] :: [] :: rest) p
      { n with powered := true, cardType := some .standardV1_1, capArg := some 0 } c) ()
    (s.left i rest (p.answeredShort s.clearMask 8 checkPattern 3 63 checkPattern) (n.probed answers) false) := by
  cases answers with
  | true =>
    exact (flagged_left (e := .ok) (by exact hi) (by decide) _ (by decide) (by decide) (by decide) _ _ (by decide) (by decide)).bind
      (Runs.onlyIf_true ((sessionWrite_left _).bind (sessionWrite_left _)))
  | false =>
    exact (flagged_left (e := .timeout) (by exact hi) (by decide) _ (by decide) (by decide) (by decide) _ _ (by decide) (by decide)).bind
      Runs.onlyIf_false

/-- The start of `powerOn` up to its first CMD55. -/
theorem powerOn_probes (hi : n.bound = some i) (hd : s.delayRuns = false) (answers : Bool) (caller : PowerCaller)
    (h : Runs (negotiate (hostIn cs) s.cfg.maxVoltTrial) (s.left i rest (p.probed s.clearMask) (n.probed answers) false) e t) :
    Runs (powerOn (hostIn cs) caller) (s.left i (probedScript i answers ++ rest) p n c) e t := by
  have hscript : probedScript i answers ++ rest = [] :: [] :: [] :: (sentScript i ++ (quiet 4 ++
      shortAnswer i 63 checkPattern (if answers then cmdrend else ctimeout) :: [] :: [] :: rest)) := by
    simp [probedScript, quiet]
  rw [hscript]
  refine (regSet_left hi (by decide) _ _ _).bind ((sessionWrite_left _).bind (Runs.getState_bind (fun _ => (delay_left hd _ _).bind
    ((sessionWrite_left _).bind ((sessionWrite_left _).bind ((sent_left (by exact hi) (by decide) _).thenOk ((interfaceProbe_left (n := n) (by exact hi) answers).bind ?_)))))))
  rw [State.setHostStep_cfg, State.left_cfg]
  exact h

/-- A trial up to the test of its OCR (41 R207). -/
theorem trial_left (hi : n.bound = some i) (hcap : n.capArg = some capArg) (hst : decodeCardStatus status = .ok) {k : Word → Act Err}
    (h : Runs (k ocr) (s.left i rest (p.tried s.clearMask status capArg ocr) n false) e t) :
    Runs (thenOk (transmitCommand (hostIn (cs ++ [⟨.powerOn, 13, 0⟩])) 55 0 1) (do
      let capArg ← readOr (fun s => s.session.capArg)
      thenOk (transmitCommand (hostIn (cs ++ [⟨.powerOn, 14, 0⟩])) 41 (acmd41Argument capArg) 3) (do
        let ocr ← regRead (hostIn cs) ⟨.powerOn, 15, 1⟩ .resp1
        k ocr))) (s.left i (trialScript i status ocr ++ rest) p n c) e t := by
  have hscript : trialScript i status ocr ++ rest = shortScript i 55 status ++ (quiet 4 ++ shortAnswer i 63 ocr cmdrend :: [] :: [] :: [] :: rest) := by
    simp [trialScript, probeScript, quiet]
  rw [hscript]
  exact (accepted_left (by exact hi) (by decide) _ hst).thenOk ((Runs.readOr (fun _ => by simpa using hcap)).bind
    ((flagged_left (e := .ok) (by exact hi) (by decide) _ (by decide) (by decide) (by decide) _ _ (by decide) (by decide)).thenOk
      ((regRead_left (by exact hi) rfl (by decide)).bind h)))

/-- A trial whose OCR shows the card busy. -/
theorem trial_busy (hi : n.bound = some i) (hcap : n.capArg = some capArg) (hst : decodeCardStatus status = .ok) (hocr : ocr.getLsbD 31 = false) {k : Nat}
    (h : Runs (voltageTrials (hostIn cs) k) (s.left i rest (p.tried s.clearMask status capArg ocr) n false) e t) :
    Runs (voltageTrials (hostIn cs) (k + 1)) (s.left i (trialScript i status ocr ++ rest) p n c) e t :=
  Runs.passed (trial_left hi hcap hst (Runs.passed (Runs.of_neg (Bool.eq_false_iff.1 hocr) h)))

/-- A list of them. -/
theorem trials_busy (hi : n.bound = some i) (hcap : n.capArg = some capArg) (hst : decodeCardStatus status = .ok) (k : Nat) {busy : List Word}
    (hbusy : ∀ o ∈ busy, o.getLsbD 31 = false)
    (h : Runs (voltageTrials (hostIn cs) k) (s.left i rest (busy.foldl (Periph.tried s.clearMask status capArg) p) n (busy.isEmpty && c)) e t) :
    Runs (voltageTrials (hostIn cs) (busy.length + k)) (s.left i (busy.flatMap (trialScript i status) ++ rest) p n c) e t := by
  induction busy generalizing p c with
  | nil => simpa using h
  | cons ocr busy ih =>
    rw [List.flatMap_cons, List.append_assoc, List.length_cons, Nat.add_right_comm]
    exact trial_busy hi hcap hst (hbusy _ (List.mem_cons_self ..)) (ih (fun o ho => hbusy o (List.mem_cons_of_mem _ ho)) (by simpa using h))

/-- The capacity class of a ready card (41 R209). -/
theorem capacityClass_left (ocr : Word) : Runs (capacityClass (hostIn cs) ocr) (s.left i rest p n c) .ok
    (s.left i rest p (if ocr.getLsbD 30 then { n with cardType := some .highCapacity } else n) c) := by
  refine Runs.passed ?_
  cases ocr.getLsbD 30 with
  | true => exact (Runs.onlyIf_true (sessionWrite_left _)).bind Runs.returned
  | false => exact Runs.onlyIf_false.bind Runs.returned

/-- A ready card before the last trial. -/
theorem trial_ready (hi : n.bound = some i) (hcap : n.capArg = some capArg) (hst : decodeCardStatus status = .ok) (hocr : ocr.getLsbD 31 = true) {k : Nat}
    (hk : k ≠ 0) : Runs (voltageTrials (hostIn cs) (k + 1)) (s.left i (trialScript i status ocr ++ rest) p n c) .ok
      (s.left i rest (p.tried s.clearMask status capArg ocr) (if ocr.getLsbD 30 then { n with cardType := some .highCapacity } else n) false) :=
  Runs.passed (trial_left hi hcap hst (Runs.passed (Runs.of_pos hocr (Runs.passed (Runs.of_neg hk (capacityClass_left ocr))))))

/-- The trials run out (41 R208). -/
theorem trials_exhausted : Runs (voltageTrials (hostIn cs) 0) (s.left i rest p n c) .invalidVoltageRange (s.left i rest p n c) := Runs.returned

/-- CMD55 is accepted, then the trials run. -/
theorem negotiate_accepted (hi : n.bound = some i) (hst : decodeCardStatus status = .ok) {k : Nat}
    (h : Runs (voltageTrials (hostIn cs) k) (s.left i rest (p.answeredShort s.clearMask 55 0 1 55 status) n true) e t) :
    Runs (negotiate (hostIn cs) k) (s.left i (shortScript i 55 status ++ rest) p n c) e t :=
  (accepted_left hi (by decide) _ hst).thenOk (Runs.passed h)

/-! ### The registers -/

theorem commandRegistersOnly_probed (p : Periph) (clear : Word) : CommandRegistersOnly { p with power := p.power ||| 3 } (p.probed clear) :=
  ((commandSent_commanded _ clear (by decide) 0 0).ended.registers).trans (commandSent_answeredShort _ clear (by decide) _ 3 63 _).registers

theorem commandRegistersOnly_tried (clear status capArg : Word) (p : Periph) (ocr : Word) : CommandRegistersOnly p (p.tried clear status capArg ocr) :=
  (commandSent_answeredShort _ clear (by decide) _ 1 55 _).registers.trans (commandSent_answeredShort _ clear (by decide) _ 3 63 _).registers

theorem commandRegistersOnly_trials (clear status capArg : Word) (ocrs : List Word) (p : Periph) :
    CommandRegistersOnly p (ocrs.foldl (Periph.tried clear status capArg) p) := by
  induction ocrs generalizing p with
  | nil => exact .refl p
  | cons ocr ocrs ih => exact (commandRegistersOnly_tried clear status capArg p ocr).trans (ih _)

/-! ### powerOn -/

/-- The capacity request that the probe earned (10 R37). -/
def capRequest (answers : Bool) : Word := if answers then 0x40000000 else 0

/-- The controller after the trials that showed `ocrs`. -/
def Periph.trials (clear status : Word) (answers : Bool) (ocrs : List Word) (p : Periph) : Periph :=
  ocrs.foldl (Periph.tried clear status (capRequest answers)) ((p.probed clear).answeredShort clear 55 0 1 55 status)

theorem commandRegistersOnly_powerOn (clear status : Word) (answers : Bool) (ocrs : List Word) (p : Periph) :
    CommandRegistersOnly { p with power := p.power ||| 3 } (p.trials clear status answers ocrs) :=
  (commandRegistersOnly_probed p clear).trans ((commandSent_answeredShort _ clear (by decide) _ 1 55 _).registers.trans
    (commandRegistersOnly_trials ..))

variable {answers : Bool} {busy : List Word} {caller : PowerCaller}

/-- `powerOn` up to the trial after the busy ones. -/
theorem powerOn_trials (hi : n.bound = some i) (hd : s.delayRuns = false) (hst : decodeCardStatus status = .ok) (hbusy : ∀ o ∈ busy, o.getLsbD 31 = false)
    {k : Nat} (hk : s.cfg.maxVoltTrial = busy.length + k)
    (h : Runs (voltageTrials (hostIn cs) k) (s.left i rest (p.trials s.clearMask status answers busy) (n.probed answers) busy.isEmpty) e t) :
    Runs (powerOn (hostIn cs) caller) (s.left i (powerOnScript i status answers busy ++ rest) p n c) e t := by
  rw [powerOnScript, List.append_assoc, List.append_assoc]
  refine powerOn_probes hi hd answers caller (negotiate_accepted (by exact hi) hst ?_)
  rw [hk]
  exact trials_busy (by exact hi) rfl hst k hbusy (by rwa [Bool.and_true])

/-- The session of a card that becomes ready (41 R206, R209). -/
def Session.negotiated (n : Session) (answers : Bool) (ocr : Word) : Session :=
  if ocr.getLsbD 30 then { n.probed answers with cardType := some .highCapacity } else n.probed answers

/-- `powerOn` of a card that becomes ready before the last trial. -/
theorem powerOn_ready (hi : n.bound = some i) (hd : s.delayRuns = false) (hst : decodeCardStatus status = .ok) (hbusy : ∀ o ∈ busy, o.getLsbD 31 = false)
    (hocr : ocr.getLsbD 31 = true) (hlen : busy.length + 1 < s.cfg.maxVoltTrial) :
    Runs (powerOn (hostIn cs) caller) (s.left i (powerOnScript i status answers (busy ++ [ocr]) ++ rest) p n c) .ok
      (s.left i rest (p.trials s.clearMask status answers (busy ++ [ocr])) (n.negotiated answers ocr) false) := by
  have hscript : powerOnScript i status answers (busy ++ [ocr]) ++ rest = powerOnScript i status answers busy ++ (trialScript i status ocr ++ rest) := by
    simp [powerOnScript]
  have hk : s.cfg.maxVoltTrial = busy.length + (s.cfg.maxVoltTrial - busy.length - 1 + 1) := by omega
  rw [hscript, Periph.trials, List.foldl_append]
  exact powerOn_trials hi hd hst hbusy hk (trial_ready (by exact hi) rfl hst hocr (by omega))

end

/-- Settles O32: the last trial decides the card type, and its OCR stays in `RESP1`. -/
theorem powerOnNegotiates : Obligations.PowerOnNegotiates := by
  unfold Obligations.PowerOnNegotiates
  intro s i status answers busy ocr rest hi hd hst hbusy hocr hlen hs
  obtain ⟨t, hexec, honly, hsession, hperiph⟩ := Runs.returns hs (powerOn_ready (cs := []) (caller := .host) hi hd hst hbusy hocr hlen) .powerOn .err
  refine ⟨t, hexec, honly, hsession.trans ?_, hperiph ▸ commandRegistersOnly_powerOn .., ?_, ?_⟩
  · cases h30 : ocr.getLsbD 30 <;> rw [Session.negotiated, h30] <;> rfl
  · rw [hperiph, Periph.trials, List.foldl_append]
    cases answers <;> rfl
  · rw [hperiph, Periph.trials, List.foldl_append]
    rfl

/-! ### Failures (41 R205, R207, R208, R215) -/

section
variable {s t : State} {i : Sdmmc} {rest : List (List Move)} {p : Periph} {n : Session} {c : Bool} {cs : List Point} {e : Err}
  {status capArg ocr : Word} {caller : PowerCaller}

/-- CMD0 gives an error. -/
theorem powerOn_cmd0 (hi : n.bound = some i) (hd : s.delayRuns = false) (he : e ≠ .ok)
    (h : Runs (transmitCommand (hostIn (cs ++ [⟨.powerOn, 6, 0⟩])) 0 0 0) (s.left i rest (p.write .power (p.power ||| 3))
      { n with powered := true, cardType := some .standardV1_1, capArg := some 0 } c) e t) :
    Runs (powerOn (hostIn cs) caller) (s.left i ([] :: [] :: [] :: rest) p n c) e t :=
  (regSet_left hi (by decide) _ _ _).bind ((sessionWrite_left _).bind (Runs.getState_bind (fun _ => (delay_left hd _ _).bind
    ((sessionWrite_left _).bind ((sessionWrite_left _).bind (h.thenOk_stop he))))))

/-- CMD55 of a trial gives an error. -/
theorem trial_cmd55 {k : Nat} {x : List (List Move)} (he : e ≠ .ok)
    (h : Runs (transmitCommand (hostIn (cs ++ [⟨.powerOn, 13, 0⟩])) 55 0 1) (s.left i x p n c) e t) :
    Runs (voltageTrials (hostIn cs) (k + 1)) (s.left i x p n c) e t := Runs.passed (h.thenOk_stop he)

/-- ACMD41 of a trial gives an error. -/
theorem trial_acmd41 (hi : n.bound = some i) (hcap : n.capArg = some capArg) (hst : decodeCardStatus status = .ok) {k : Nat} (he : e ≠ .ok)
    (h : Runs (transmitCommand (hostIn (cs ++ [⟨.powerOn, 14, 0⟩])) 41 (acmd41Argument capArg) 3)
      (s.left i rest (p.answeredShort s.clearMask 55 0 1 55 status) n true) e t) :
    Runs (voltageTrials (hostIn cs) (k + 1)) (s.left i (shortScript i 55 status ++ rest) p n c) e t :=
  Runs.passed ((accepted_left hi (by decide) _ hst).thenOk ((Runs.readOr (fun _ => by simpa using hcap)).bind (h.thenOk_stop he)))

theorem drawBool_left : Runs drawBool (s.left i rest p n c) (Config.freeBool s.draws) ((s.setDraws (s.draws + 1)).left i rest p n c) :=
  fun h => ⟨h, by cases i <;> rfl⟩

/-- A card ready on the last trial: the free choice (41 R208). -/
theorem trial_last (hi : n.bound = some i) (hcap : n.capArg = some capArg) (hst : decodeCardStatus status = .ok) (hocr : ocr.getLsbD 31 = true) :
    Runs (voltageTrials (hostIn cs) 1) (s.left i (trialScript i status ocr ++ rest) p n c) (if Config.freeBool s.draws then .invalidVoltageRange else .ok)
      ((s.setDraws (s.draws + 1)).left i rest (p.tried s.clearMask status capArg ocr)
        (if Config.freeBool s.draws then n else if ocr.getLsbD 30 then { n with cardType := some .highCapacity } else n) false) := by
  refine Runs.passed (trial_left hi hcap hst (Runs.passed (Runs.of_pos hocr (Runs.passed (Runs.of_pos rfl (Runs.passed (drawBool_left.bind ?_)))))))
  cases Config.freeBool s.draws with
  | true => exact Runs.of_pos rfl Runs.returned
  | false => exact Runs.of_neg (by decide) (capacityClass_left ocr)

/-- `powerOn` returns the error `e` of one of its commands or of its trials. -/
theorem powerOn_fails {x : List (List Move)} {q : Periph} (hs : s.sched = x)
    (h : Runs (powerOn hostFrame .host) (s.left i x (s.periph i) s.session s.appCmd) e (s.left i rest q n c))
    (hq : CommandRegistersOnly { s.periph i with power := (s.periph i).power ||| 3 } q) : ∃ t, exec .powerOn s = .next t ∧
      ControllerOnly i rest (.err e) s t ∧ t.session = n ∧ CommandRegistersOnly { s.periph i with power := (s.periph i).power ||| 3 } (t.periph i) := by
  obtain ⟨t, hexec, honly, hsession, hperiph⟩ := Runs.returns hs h .powerOn .err
  exact ⟨t, hexec, honly, hsession, hperiph ▸ hq⟩

end

/-- Settles O33: each failing command ends the operation where it stands; the last trial makes its free choice. -/
theorem powerOnFailures : Obligations.PowerOnFailures := by
  unfold Obligations.PowerOnFailures
  intro s i status failing answers busy ocr rest hi hd hst hbusy
  refine ⟨fun hlen hs => ?_, fun hlen hocr hs => ?_, fun hs => ?_, fun hfail => ⟨fun hs => ?_, fun hlen hs => ?_⟩, fun hlen hs => ?_⟩
  · exact powerOn_fails hs (powerOn_trials (cs := []) (k := 0) hi hd hst hbusy hlen.symm trials_exhausted) (commandRegistersOnly_powerOn ..)
  · have hs' : s.sched = powerOnScript i status answers busy ++ (trialScript i status ocr ++ rest) := by
      rw [hs]
      simp [powerOnScript]
    have hrun := (powerOn_trials (cs := []) (caller := .host) (k := 1) hi hd hst hbusy hlen.symm (trial_last (by exact hi) rfl hst hocr)).start i hs'
    refine ⟨_, hrun.finish, by simp, fun hfree => by rw [hfree]; rfl, fun hfree => ?_⟩
    rw [hfree]
    refine ⟨rfl, fun h30 => ?_⟩
    rw [h30, State.setReturn_session, State.left_session]
    rfl
  · exact powerOn_fails hs (powerOn_cmd0 (cs := []) hi hd nofun (silent_left (by exact hi) (by decide) 0 (by decide)))
      (commandSent_commanded _ _ (by decide) _ _).registers
  · rw [List.append_assoc] at hs
    exact powerOn_fails hs (powerOn_probes (cs := []) hi hd answers .host ((command_left (by exact hi) (by decide) 0 failing).thenOk_stop hfail))
      ((commandRegistersOnly_probed ..).trans (commandSent_answeredShort _ _ (by decide) _ _ _ _).registers)
  · rw [List.append_assoc] at hs
    obtain ⟨k, hk⟩ : ∃ k, s.cfg.maxVoltTrial = busy.length + (k + 1) := ⟨s.cfg.maxVoltTrial - busy.length - 1, by omega⟩
    exact powerOn_fails hs (powerOn_trials (cs := []) hi hd hst hbusy hk (trial_cmd55 hfail (command_left (by exact hi) (by decide) 0 failing)))
      ((commandRegistersOnly_powerOn ..).trans (commandSent_answeredShort _ _ (by decide) _ _ _ _).registers)
  · obtain ⟨k, hk⟩ : ∃ k, s.cfg.maxVoltTrial = busy.length + (k + 1) := ⟨s.cfg.maxVoltTrial - busy.length - 1, by omega⟩
    have hs' : s.sched = powerOnScript i status answers busy ++ (shortScript i 55 status ++ (quiet 4 ++ shortAnswer i 63 0 ctimeout :: [] :: [] :: rest)) := by
      rw [hs]
      simp [quiet]
    exact powerOn_fails hs' (powerOn_trials (cs := []) hi hd hst hbusy hk (trial_acmd41 (by exact hi) rfl hst nofun
      (flagged_left (e := .timeout) (by exact hi) (by decide) _ (by decide) (by decide) (by decide) _ _ (by decide) (by decide))))
      ((commandRegistersOnly_powerOn ..).trans ((commandSent_answeredShort _ _ (by decide) _ _ _ _).registers.trans
        (commandSent_answeredShort _ _ (by decide) _ _ _ _).registers))

end Sys2Proof.Machine

/-! SUPPORT. Polled reads over a known schedule (43 R281, 44 R330): what `ENV` turns a controller into, the FIFO loop, the drain. -/

namespace Sys2Proof.Machine

/-! ### Moves on one controller -/

/-- The moves are moves of `ENV`, turn the controller `p` into `q` and change nothing else. -/
def Turns (i : Sdmmc) (moves : List Move) (p q : Periph) : Prop :=
  (∀ m ∈ moves, m.fromEnv = true) ∧ ∀ u : State, u.periph i = p → envMoves moves u = u.setPeriph i q

section
variable {i : Sdmmc} {moves : List Move} {p q r : Periph} {m : Move}

theorem Turns.nil : Turns i [] p p := ⟨nofun, fun u hu => by rw [← hu, State.setPeriph_periph]; rfl⟩

theorem Turns.single (hm : m.fromEnv = true) (h : ∀ u : State, u.periph i = p → applyEnv m u = u.setPeriph i q) : Turns i [m] p q :=
  ⟨by simpa using hm, h⟩

theorem Turns.cons (hm : Turns i [m] p q) (h : Turns i moves q r) : Turns i (m :: moves) p r := by
  refine ⟨fun x hx => (List.mem_cons.1 hx).elim (fun e => hm.1 x (by simp [e])) (h.1 x), fun u hu => ?_⟩
  show envMoves moves (applyEnv m u) = _
  rw [show applyEnv m u = u.setPeriph i q from hm.2 u hu, h.2 _ (State.periph_setPeriph ..), State.setPeriph_setPeriph]

/-- The end of a data phase with `flags` (10 R67). -/
def Periph.dataEnded (p : Periph) (flags : Word) : Periph :=
  { p with sta := p.sta ||| (flags &&& p.dataFlagsAllowed), dctrl := p.dctrl &&& ~~~(1 : Word), dataSent := false }

theorem turns_dataFlags (hd : p.dataActive = true) (flags : Word) :
    Turns i [.dataFlags i flags] p { p with sta := p.sta ||| (flags &&& p.dataFlagsAllowed) } :=
  .single rfl (fun u hu => by rw [applyEnv, hu, if_pos hd])

theorem turns_dataEnded (hd : p.dataActive = true) (flags : Word) : Turns i [.dataFlags i flags, .dataPhaseEnd i] p (p.dataEnded flags) :=
  (turns_dataFlags hd flags).cons (.single rfl (fun u hu => by rw [applyEnv, hu]; rfl))

/-! ### The receive FIFO -/

/-- The controller with the words `ws` in its receive FIFO, `RXFIFOE` following it (10 R57). -/
def Periph.holding (p : Periph) (ws : List Word) : Periph := { p with fifo := ws }.syncRx

theorem Periph.holding_sta (p : Periph) (ws : List Word) : (p.holding ws).sta = if ws.isEmpty then p.sta ||| rxfifoe else p.sta &&& ~~~rxfifoe := rfl

theorem Periph.holding_holding (p : Periph) (a b : List Word) : (p.holding a).holding b = p.holding b := by
  have hor : ∀ x : Word, x &&& ~~~rxfifoe ||| rxfifoe = x ||| rxfifoe := fun x => by ext j hj; simp; grind
  have hand : ∀ x : Word, (x ||| rxfifoe) &&& ~~~rxfifoe = x &&& ~~~rxfifoe := fun x => by ext j hj; simp; grind
  have hsta : ((p.holding a).holding b).sta = (p.holding b).sta := by
    rw [Periph.holding_sta, Periph.holding_sta, Periph.holding_sta]
    cases a.isEmpty <;> cases b.isEmpty <;> simp [hor, hand, BitVec.and_assoc, BitVec.or_assoc]
  exact congrArg (fun x => { p with fifo := b, sta := x }) hsta

theorem holding_pollEnd (p : Periph) (ws : List Word) : (p.holding ws).sta &&& pollEnd = p.sta &&& pollEnd := by
  have h1 : rxfifoe &&& pollEnd = 0 := by decide
  have h2 : ~~~rxfifoe &&& pollEnd = pollEnd := by decide
  rw [Periph.holding_sta]
  cases ws.isEmpty
  · simp [BitVec.and_assoc, h2]
  · simp [BitVec.and_or_distrib_right, h1]

theorem rxfifoe_eq : rxfifoe = BitVec.twoPow 32 19 := by decide

/-- `RXFIFOE` says whether a word is there. -/
theorem holding_rxfifoe (p : Periph) (ws : List Word) : hasFlag (p.holding ws).sta rxfifoe = ws.isEmpty := by
  have h1 : rxfifoe.getLsbD 19 = true := by decide
  have h2 : (~~~rxfifoe).getLsbD 19 = false := by decide
  rw [Periph.holding_sta, rxfifoe_eq, hasFlag_bit _ (by decide), ← rxfifoe_eq]
  cases ws.isEmpty
  · rw [if_neg (by decide), BitVec.getLsbD_and, h2, Bool.and_false]
  · rw [if_pos rfl, BitVec.getLsbD_or, h1, Bool.or_true]

/-- A read takes the first word. -/
theorem holding_afterRead (p : Periph) (w : Word) (ws : List Word) : (p.holding (w :: ws)).afterRead .fifo = p.holding ws := p.holding_holding (w :: ws) ws

/-- The card's words come into the FIFO. -/
theorem turns_fifoPush (hd : p.dten = true) (ht : toController p.dctrl = true) (w : Word) (ws : List Word) :
    Turns i ((w :: ws).map (Move.fifoPush i)) p (p.holding (p.fifo ++ w :: ws)) := by
  have hone : ∀ (q : Periph) (x : Word), q.dten = true → toController q.dctrl = true → Turns i [.fifoPush i x] q (q.holding (q.fifo ++ [x])) := by
    intro q x hdq htq
    refine .single rfl (fun u hu => ?_)
    rw [applyEnv, hu, if_pos (by simp [Periph.dataActive, hdq, htq])]
    rfl
  induction ws generalizing p w with
  | nil => exact hone p w hd ht
  | cons x ws ih =>
    have hrest := ih (p := p.holding (p.fifo ++ [w])) hd ht x
    rw [Periph.holding_holding] at hrest
    refine (hone p w hd ht).cons ?_
    rwa [show (p.holding (p.fifo ++ [w])).fifo ++ x :: ws = p.fifo ++ w :: x :: ws by simp [Periph.holding, Periph.syncRx]] at hrest

end

/-! ### Steps with moves -/

section
variable {s t : State} {i : Sdmmc} {moves : List Move} {rest : List (List Move)} {p q : Periph} {n : Session} {c : Bool} {cs : List Point} {pt : Point}

theorem step_turns (hm : Turns i moves p q) : Runs ((hostIn cs).step pt) (s.left i (moves :: rest) p n c) () (s.left i rest q n c) := by
  refine fun h => ⟨h.goto (cs ++ [pt]), (step_env (moves := moves) (rest := rest) (by simp) hm.1).trans ?_⟩
  rw [hm.2 _ (by simp)]
  cases i <;> rfl

/-- A read of a register after moves on its controller. -/
theorem regRead_turns (hi : n.bound = some i) (hm : Turns i moves p q) {r : Reg} (hr : r ≠ .fifo) :
    Runs (regRead (hostIn cs) pt r) (s.left i (moves :: rest) p n c) (q.value r) (s.left i rest q n c) := by
  intro h
  obtain ⟨h', hstep⟩ := step_turns (s := s) (rest := rest) (n := n) (c := c) (cs := cs) (pt := pt) hm h
  refine ⟨h', (regRead_plain hstep (i := i) (by simpa using hi) hr).trans ?_⟩
  simp

/-- A read of the FIFO. -/
theorem regRead_word (hi : n.bound = some i) (w : Word) (ws : List Word) :
    Runs (regRead (hostIn cs) pt .fifo) (s.left i ([] :: rest) (p.holding (w :: ws)) n c) w (s.left i rest (p.holding ws) n c) := by
  intro h
  obtain ⟨h', hstep⟩ := step_left (s := s) (i := i) (x := [] :: rest) (p := p.holding (w :: ws)) (n := n) (c := c) (cs := cs) (pt := pt) rfl h
  refine ⟨h', (regRead_run hstep (i := i) (by simpa using hi) (by simp [Periph.holding, Periph.syncRx])).trans ?_⟩
  rw [State.setHostStep_periph, State.left_periph, holding_afterRead]
  cases i <;> rfl

/-! ### The FIFO loop -/

variable {pts : ReadPoints} {limit k : Nat} {at_ : List Word → Place} {w : Word} {ws got : List Word} {a : Word × List Word}

/-- An iteration that takes a word. -/
theorem fifoLoop_word (hi : n.bound = some i) (hm : Turns i moves p (q.holding (w :: ws))) (hq : q.sta &&& pollEnd = 0) (hlen : got.length < limit)
    (h : Runs (fifoLoop (hostIn cs) pts limit at_ k (got ++ [w])) (s.left i rest (q.holding ws) n c) a t) :
    Runs (fifoLoop (hostIn cs) pts limit at_ (k + 1) got) (s.left i (moves :: [] :: rest) p n c) a t := by
  refine Runs.passed ((regRead_turns hi hm (by decide)).bind (Runs.passed (Runs.of_neg ?_ (Runs.passed (Runs.of_pos ?_ ((regRead_word hi w ws).bind h))))))
  · rw [show (q.holding (w :: ws)).value .sta = (q.holding (w :: ws)).sta from rfl, hasFlag, holding_pollEnd, hq]
    decide
  · rw [show (q.holding (w :: ws)).value .sta = (q.holding (w :: ws)).sta from rfl, holding_rxfifoe]
    simpa using hlen

/-- The iteration that sees a flag which ends the read. -/
theorem fifoLoop_end (hi : n.bound = some i) (hm : Turns i moves p q) (hq : hasFlag q.sta pollEnd = true) :
    Runs (fifoLoop (hostIn cs) pts limit at_ (k + 1) got) (s.left i (moves :: rest) p n c) (q.sta, got) (s.left i rest q n c) :=
  Runs.passed ((regRead_turns hi hm (by decide)).bind (Runs.passed (Runs.of_pos hq Runs.returned)))

/-- The words that are there, while nothing else steps. -/
theorem fifoLoop_words (hi : n.bound = some i) (hq : q.sta &&& pollEnd = 0) (hlen : got.length + ws.length ≤ limit)
    (h : Runs (fifoLoop (hostIn cs) pts limit at_ k (got ++ ws)) (s.left i rest (q.holding []) n c) a t) :
    Runs (fifoLoop (hostIn cs) pts limit at_ (k + ws.length) got) (s.left i (quiet (2 * ws.length) ++ rest) (q.holding ws) n c) a t := by
  induction ws generalizing got with
  | nil => simpa [quiet] using h
  | cons w ws ih =>
    have hscript : quiet (2 * (w :: ws).length) ++ rest = [] :: [] :: (quiet (2 * ws.length) ++ rest) := by
      rw [show 2 * (w :: ws).length = 2 * ws.length + 1 + 1 by simp; omega]
      rfl
    rw [hscript]
    simp only [List.length_cons] at hlen
    exact fifoLoop_word hi Turns.nil hq (by omega) (ih (by simp; omega) (by simpa using h))

/-! ### The end of a read -/

variable {sta : Word} {e : Err}

/-- No drain after an error. -/
theorem drainAfter_error (he : e ≠ .ok) (words : List Word) : Runs (drainAfter (hostIn cs) pts e limit words) s words s :=
  Runs.passed (Runs.of_neg he Runs.pure)

/-- Nothing to drain where every word was received. -/
theorem drainAfter_full {words : List Word} (hlen : words.length = limit) : Runs (drainAfter (hostIn cs) pts .ok limit words) s words s := by
  refine Runs.passed (Runs.of_pos rfl ?_)
  rw [hlen, Nat.sub_self]
  exact Runs.returned

/-- A drain that finds the FIFO empty. -/
theorem drainAfter_empty (hi : n.bound = some i) {words : List Word} (hlen : words.length < limit) (hrx : hasFlag p.sta rxfifoe = true) :
    Runs (drainAfter (hostIn cs) pts .ok limit words) (s.left i ([] :: rest) p n c) words (s.left i rest p n c) := by
  refine Runs.passed (Runs.of_pos rfl ?_)
  rw [show limit - words.length = limit - words.length - 1 + 1 by omega]
  exact (regRead_left hi rfl (by decide)).bind (Runs.of_pos hrx Runs.pure)

/-- A polled read from its loop to its final clear. -/
theorem polledRead_left (hi : n.bound = some i) {x y : List (List Move)} {r : Periph} {words words' : List Word}
    (hloop : Runs (fifoLoop (hostIn cs) pts limit at_ (x.length + limit + 1) got) (s.left i x p n c) (sta, words) (s.left i y q n c))
    (hdrain : Runs (drainAfter (hostIn cs) pts (pollError sta) limit words) (s.left i y q n c) words' (s.left i ([] :: rest) r n c)) :
    Runs (polledRead (hostIn cs) pts limit at_ got) (s.left i x p n c) (pollError sta, words')
      (s.left i rest (r.write .icr staticFlags) n c) := by
  refine Runs.getState_bind (fun _ => ?_)
  rw [State.setHostStep_sched, State.left_sched]
  refine hloop.bind ?_
  exact hdrain.bind ((regWrite_left hi rfl _ _).bind Runs.returned)

end

/-! ### The flags of a read -/

section
variable {x f m : Word} {p : Periph}

theorem and_eq_zero_of_subset (hx : x &&& pollEnd = 0) (hm : pollEnd &&& m = m) : x &&& m = 0 := by
  rw [← hm, ← BitVec.and_assoc, hx]
  exact BitVec.zero_and

theorem hasFlag_or_of_clear (hx : x &&& m = 0) : hasFlag (x ||| f) m = hasFlag f m := by
  rw [hasFlag, hasFlag, BitVec.and_or_distrib_right, hx]
  simp

theorem hasFlag_and_of_subset (hm : f &&& m = m) : hasFlag (x &&& f) m = hasFlag x m := by
  rw [hasFlag, hasFlag, BitVec.and_assoc, hm]

/-- The result of a read is that of the flags that came. -/
theorem pollError_or (hx : x &&& pollEnd = 0) (f : Word) : pollError (x ||| f) = pollError f := by
  simp only [pollError, hasFlag_or_of_clear (and_eq_zero_of_subset hx (m := dtimeout) (by decide)),
    hasFlag_or_of_clear (and_eq_zero_of_subset hx (m := dcrcfail) (by decide)), hasFlag_or_of_clear (and_eq_zero_of_subset hx (m := rxoverr) (by decide))]

/-- `ENV` may set each error flag of a data phase (10 R67). -/
theorem dataFlagsAllowed_of (hm : (dataFlags &&& ~~~dataend) &&& m = m) (hm' : dataFlags &&& m = m) (p : Periph) : p.dataFlagsAllowed &&& m = m := by
  rw [Periph.dataFlagsAllowed]
  split
  · exact hm
  · exact hm'

theorem pollError_dataFlags (hx : x &&& pollEnd = 0) (f : Word) (p : Periph) : pollError (x ||| (f &&& p.dataFlagsAllowed)) = pollError f := by
  rw [pollError_or hx]
  simp only [pollError, hasFlag_and_of_subset (dataFlagsAllowed_of (m := dtimeout) (by decide) (by decide) p),
    hasFlag_and_of_subset (dataFlagsAllowed_of (m := dcrcfail) (by decide) (by decide) p),
    hasFlag_and_of_subset (dataFlagsAllowed_of (m := rxoverr) (by decide) (by decide) p)]

/-- The order of the data errors (43 R281). -/
theorem pollError_eq (hf : f &&& 0x2A ≠ 0) :
    pollError f = if f.getLsbD 3 then .dataTimeout else if f.getLsbD 1 then .dataCrcFail else .rxOverrun := by
  rw [pollError, hasFlag_dtimeout, hasFlag_dcrcfail, hasFlag_rxoverr]
  by_cases h3 : f.getLsbD 3 = true
  · rw [if_pos h3, if_pos h3]
  · by_cases h1 : f.getLsbD 1 = true
    · rw [if_neg h3, if_neg h3, if_pos h1, if_pos h1]
    · have h5 : f.getLsbD 5 = true := by
        refine Decidable.byContradiction (fun h5 => hf (BitVec.eq_of_getLsbD_eq (fun j hj => ?_)))
        have hbits : ∀ j < 32, (0x2A : Word).getLsbD j = true → j = 1 ∨ j = 3 ∨ j = 5 := by decide
        rw [BitVec.getLsbD_and, show (0 : Word).getLsbD j = false from BitVec.getLsbD_zero]
        cases hm : (0x2A : Word).getLsbD j with
        | false => exact Bool.and_false _
        | true =>
          obtain rfl | rfl | rfl := hbits j hj hm
          · simpa using h1
          · simpa using h3
          · simpa using h5
      rw [if_neg h3, if_neg h3, if_neg h1, if_neg h1, if_pos h5]

theorem pollError_ne_ok (hf : f &&& 0x2A ≠ 0) : pollError f ≠ .ok := by
  rw [pollError_eq hf]
  split
  · nofun
  · split <;> nofun

/-- An error flag ends the read. -/
theorem hasFlag_pollEnd_error (hf : f &&& 0x2A ≠ 0) (p : Periph) : hasFlag (x ||| (f &&& p.dataFlagsAllowed)) pollEnd = true := by
  have h : f &&& p.dataFlagsAllowed &&& 0x2A ≠ 0 := by
    rwa [BitVec.and_assoc, dataFlagsAllowed_of (by decide) (by decide) p]
  refine bne_iff_ne.2 (fun h0 => h ?_)
  have hsub : (x ||| (f &&& p.dataFlagsAllowed)) &&& 0x2A = 0 := and_eq_zero_of_subset h0 (by decide)
  rw [BitVec.and_or_distrib_right] at hsub
  exact (BitVec.or_eq_zero_iff.1 hsub).2

/-- The end of data may be reported where the IDMA is off. -/
theorem dataend_allowed (h : p.idmaen = false) : dataend &&& p.dataFlagsAllowed = dataend := by
  rw [Periph.dataFlagsAllowed, h, Bool.false_and, Bool.false_and, if_neg (by decide)]
  decide

theorem hasFlag_pollEnd_dataend (h : p.idmaen = false) : hasFlag (x ||| (dataend &&& p.dataFlagsAllowed)) pollEnd = true := by
  rw [dataend_allowed h]
  refine bne_iff_ne.2 (fun h0 => ?_)
  rw [BitVec.and_or_distrib_right] at h0
  exact absurd (BitVec.or_eq_zero_iff.1 h0).2 (by decide)

theorem pollError_dataend : pollError dataend = .ok := by decide

end

end Sys2Proof.Machine

/-! SUPPORT. findSCR and sendSDStatus over their scripts (43 R281, R283, 44 R330, R331). -/

namespace Sys2Proof.Machine

/-! ### Ends of a polled read -/

section
variable {s t : State} {i : Sdmmc} {moves : List Move} {rest y : List (List Move)} {p q : Periph} {n : Session} {c : Bool} {cs : List Point}
  {pts : ReadPoints} {limit : Nat} {at_ : List Word → Place} {got words : List Word} {flags : Word}

/-- A read whose next poll sees a flag that ends it. -/
theorem polledRead_now (hi : n.bound = some i) (hm : Turns i moves p q) (hq : hasFlag q.sta pollEnd = true)
    (hdrain : Runs (drainAfter (hostIn cs) pts (pollError q.sta) limit got) (s.left i y q n c) words (s.left i ([] :: rest) q n c)) :
    Runs (polledRead (hostIn cs) pts limit at_ got) (s.left i (moves :: y) p n c) (pollError q.sta, words)
      (s.left i rest (q.write .icr staticFlags) n c) := polledRead_left hi (fifoLoop_end hi hm hq) hdrain

/-- A read that a data error ends. -/
theorem polledRead_error (hi : n.bound = some i) (hp : p.sta &&& pollEnd = 0) (hf : flags &&& 0x2A ≠ 0) (hm : Turns i moves p q)
    (hq : q.sta = p.sta ||| (flags &&& p.dataFlagsAllowed)) :
    Runs (polledRead (hostIn cs) pts limit at_ got) (s.left i (moves :: [] :: rest) p n c) (pollError flags, got)
      (s.left i rest (q.write .icr staticFlags) n c) := by
  have he : pollError q.sta = pollError flags := by rw [hq, pollError_dataFlags hp]
  have h := polledRead_now (s := s) (rest := rest) (c := c) (cs := cs) (pts := pts) (limit := limit) (at_ := at_) (got := got) (words := got)
    (y := [] :: rest) hi hm (by rw [hq]; exact hasFlag_pollEnd_error hf p) (drainAfter_error (he ▸ pollError_ne_ok hf) got)
  rwa [he] at h

/-- A read that ends with every word received. -/
theorem polledRead_full (hi : n.bound = some i) (hp : p.sta &&& pollEnd = 0) (hidma : p.idmaen = false) (hlen : got.length = limit)
    (hm : Turns i moves p q) (hq : q.sta = p.sta ||| (dataend &&& p.dataFlagsAllowed)) :
    Runs (polledRead (hostIn cs) pts limit at_ got) (s.left i (moves :: [] :: rest) p n c) (.ok, got)
      (s.left i rest (q.write .icr staticFlags) n c) := by
  have he : pollError q.sta = .ok := by rw [hq, pollError_dataFlags hp, pollError_dataend]
  have h := polledRead_now (s := s) (rest := rest) (c := c) (cs := cs) (pts := pts) (limit := limit) (at_ := at_) (got := got) (words := got)
    (y := [] :: rest) hi hm (by rw [hq]; exact hasFlag_pollEnd_dataend hidma) (he ▸ drainAfter_full hlen)
  rwa [he] at h

/-- A read that ends with no word received and none in the FIFO. -/
theorem polledRead_empty (hi : n.bound = some i) (hp : p.sta &&& pollEnd = 0) (hidma : p.idmaen = false) (hlen : got.length < limit)
    (hrx : hasFlag q.sta rxfifoe = true) (hm : Turns i moves p q) (hq : q.sta = p.sta ||| (dataend &&& p.dataFlagsAllowed)) :
    Runs (polledRead (hostIn cs) pts limit at_ got) (s.left i (moves :: [] :: [] :: rest) p n c) (.ok, got)
      (s.left i rest (q.write .icr staticFlags) n c) := by
  have he : pollError q.sta = .ok := by rw [hq, pollError_dataFlags hp, pollError_dataend]
  have h := polledRead_now (s := s) (rest := rest) (c := c) (cs := cs) (pts := pts) (limit := limit) (at_ := at_) (got := got) (words := got)
    (y := [] :: [] :: rest) hi hm (by rw [hq]; exact hasFlag_pollEnd_dataend hidma) (he ▸ drainAfter_empty hi hlen hrx)
  rwa [he] at h

/-- A polled read is armed: words come from the card, the IDMA is off, no flag that ends it is set. -/
structure Periph.polling (p : Periph) : Prop where
  dten : p.dten = true
  dir : toController p.dctrl = true
  idma : p.idmaen = false
  flags : p.sta &&& pollEnd = 0
  fifo : p.fifo = []

/-- The controller after a read of all its words. -/
def Periph.readOut (p : Periph) : Periph := ((p.holding []).dataEnded dataend).write .icr staticFlags

/-- A read over its script. -/
theorem polledRead_script (hi : n.bound = some i) (hp : p.polling) {w : Word} {ws : List Word} (hlen : (w :: ws).length = limit) :
    Runs (polledRead (hostIn cs) pts limit at_ []) (s.left i (readScript i (w :: ws) ++ rest) p n c) (.ok, w :: ws) (s.left i rest p.readOut n c) := by
  obtain ⟨hdten, hdir, hidma, hflags, hfifo⟩ := hp
  have hscript : readScript i (w :: ws) ++ rest =
      (w :: ws).map (Move.fifoPush i) :: [] :: (quiet (2 * ws.length) ++ [.dataFlags i dataend, .dataPhaseEnd i] :: [] :: rest) := by
    rw [readScript, show 2 * (w :: ws).length - 1 = 2 * ws.length + 1 by simp; omega]
    simp [quiet, List.replicate_succ]
  have hpush := turns_fifoPush (i := i) hdten hdir w ws
  rw [hfifo, List.nil_append] at hpush
  have hpoll : (p.holding []).sta &&& pollEnd = 0 := by rw [holding_pollEnd, hflags]
  have hend : Turns i [.dataFlags i dataend, .dataPhaseEnd i] (p.holding []) ((p.holding []).dataEnded dataend) :=
    turns_dataEnded (by rw [Periph.dataActive, show (p.holding []).dten = p.dten from rfl, hdten, Bool.true_or]) dataend
  have he : pollError ((p.holding []).dataEnded dataend).sta = .ok := (pollError_dataFlags hpoll _ _).trans pollError_dataend
  rw [hscript]
  obtain ⟨k, hk⟩ : ∃ k, ((w :: ws).map (Move.fifoPush i) :: [] :: (quiet (2 * ws.length) ++ [.dataFlags i dataend, .dataPhaseEnd i] :: [] :: rest)).length +
      limit + 1 = k + 1 + ws.length + 1 := ⟨2 * ws.length + rest.length + 4, by rw [← hlen]; simp [quiet]; omega⟩
  have hloop : Runs (fifoLoop (hostIn cs) pts limit at_ (k + 1 + ws.length + 1) [])
      (s.left i ((w :: ws).map (Move.fifoPush i) :: [] :: (quiet (2 * ws.length) ++ [.dataFlags i dataend, .dataPhaseEnd i] :: [] :: rest)) p n c)
      (((p.holding []).dataEnded dataend).sta, w :: ws) (s.left i ([] :: rest) ((p.holding []).dataEnded dataend) n c) :=
    fifoLoop_word hi hpush hflags (by rw [← hlen]; simp) (fifoLoop_words hi hflags (by rw [← hlen]; simp; omega)
      (fifoLoop_end hi hend (hasFlag_pollEnd_dataend (p := p.holding []) hidma)))
  rw [← hk] at hloop
  have h := polledRead_left (rest := rest) (words' := w :: ws) hi hloop (he ▸ drainAfter_full hlen)
  rwa [he] at h

end

/-! ### The commands before the read -/

/-- The controller when CMD16, CMD55 and the command of the read were accepted, the data path set up before the last (43 R281, 44 R330). -/
def Periph.pollArmed (p : Periph) (clear status argument timeout length control command : Word) : Periph :=
  (((((p.answeredShort clear 16 length 1 16 status).answeredShort clear 55 argument 1 55 status).write .dtimer timeout).write .dlen length).write
    .dctrl control).answeredShort clear command 0 1 command status

section
variable {s t : State} {i : Sdmmc} {rest : List (List Move)} {p q : Periph} {n : Session} {c : Bool} {cs cs1 cs2 cs3 : List Point} {e : Err}
  {clear status argument timeout length control command : Word} {rca : BitVec 16} {proc : Proc} {lines : List (Nat × Nat)} {k : Act Err}

theorem armPolledRead_left (hi : n.bound = some i) (length control : Word) : Runs (armPolledRead (hostIn cs) proc length control)
    (s.left i ([] :: [] :: [] :: rest) p n c) ()
    (s.left i rest (((p.write .dtimer s.cfg.dtimer).write .dlen length).write .dctrl control) n c) := by
  refine Runs.getState_bind (fun _ => ?_)
  rw [State.setHostStep_cfg, State.left_cfg]
  exact (regWrite_left hi rfl _ _).bind ((regWrite_left hi rfl _ _).bind (regWrite_left hi rfl _ _))

/-- The commands of a polled read over their script. -/
theorem polledCommands_left (hi : n.bound = some i) (hrca : n.rca = some rca) (hst : decodeCardStatus status = .ok) (hcmd : command.toNat < 64)
    (h : Runs k (s.left i rest (p.pollArmed s.clearMask status (rcaArgument rca) s.cfg.dtimer length control command) n (command = 55)) e t) :
    Runs (thenOk (transmitCommand (hostIn cs1) 16 length 1) (do
      let a ← readRcaArg
      thenOk (transmitCommand (hostIn cs2) 55 a 1) (do
        armPolledRead (hostIn cs) proc length control
        thenOk (transmitCommand (hostIn cs3) command 0 1) (do
          (hostIn cs).pass proc lines
          k)))) (s.left i (shortScript i 16 status ++ (shortScript i 55 status ++ ([] :: [] :: [] :: (shortScript i command status ++ rest)))) p n c) e t :=
  (accepted_left hi (by decide) _ hst).thenOk ((Runs.readRcaArg (by simpa using hrca)).bind ((accepted_left hi (by decide) _ hst).thenOk
    ((armPolledRead_left hi _ _).bind ((accepted_left hi hcmd _ hst).thenOk (Runs.passed h)))))

/-- Arming the data path for the receiver follows the FIFO. -/
theorem write_dctrl_armed (hc : control.getLsbD 0 = true) (p : Periph) :
    p.write .dctrl control = ({ p with dctrl := control, dmaCount := 0 } : Periph).holding p.fifo := by
  rw [Periph.write, if_pos hc]
  rfl

theorem CommandRegistersOnly.holding (p : Periph) : CommandRegistersOnly p (p.holding p.fifo) := rfl

theorem CommandRegistersOnly.armed (h : CommandRegistersOnly p q) (timeout length control : Word) :
    CommandRegistersOnly { p with dtimer := timeout, dlen := length, dctrl := control, dmaCount := 0 }
      { q with dtimer := timeout, dlen := length, dctrl := control, dmaCount := 0 } :=
  (congrArg (fun x : Periph => { x with dtimer := timeout, dlen := length, dctrl := control, dmaCount := 0 }) h :)

/-- What the commands of a polled read leave of the registers. -/
theorem pollArmed_registers (hc : control.getLsbD 0 = true) (hcmd : command.toNat < 64) (p : Periph) :
    CommandRegistersOnly { p with dtimer := timeout, dlen := length, dctrl := control, dmaCount := 0 }
      (p.pollArmed clear status argument timeout length control command) := by
  have h16 : CommandRegistersOnly p (p.answeredShort clear 16 length 1 16 status) := (commandSent_answeredShort p clear (by decide) _ 1 _ _).registers
  have h55 := h16.trans (commandSent_answeredShort _ clear (c := 55) (by decide) argument 1 55 status).registers
  rw [Periph.pollArmed, write_dctrl_armed hc]
  exact (h55.armed timeout length control).trans ((CommandRegistersOnly.holding _).trans
    (commandSent_answeredShort _ clear hcmd 0 1 command status).registers)

/-- They set no flag that ends a read. -/
theorem pollArmed_flags (hc : control.getLsbD 0 = true) (hcmd : command.toNat < 64) (hp : p.sta &&& pollEnd = 0) :
    (p.pollArmed clear status argument timeout length control command).sta &&& pollEnd = 0 := by
  have h16 := (commandSent_answeredShort p clear (c := 16) (by decide) length 1 16 status).flags _ hp
  have h55 := (commandSent_answeredShort _ clear (c := 55) (by decide) argument 1 55 status).flags _ h16
  refine (commandSent_answeredShort _ clear hcmd 0 1 command status).flags _ ?_
  rw [write_dctrl_armed hc, holding_pollEnd]
  exact h55

/-- `RXFIFOE` still follows the empty FIFO. -/
theorem pollArmed_rxfifoe (hc : control.getLsbD 0 = true) (hfifo : p.fifo = []) (m : ClearSet) :
    hasFlag (p.pollArmed (clearSetMask m) status argument timeout length control command).sta rxfifoe = true := by
  have hm : ~~~clearSetMask m &&& rxfifoe = rxfifoe := by cases m <;> decide
  rw [Periph.pollArmed, write_dctrl_armed hc]
  refine (hasFlag_and_of_subset hm).trans ((holding_rxfifoe _ _).trans ?_)
  show p.fifo.isEmpty = true
  rw [hfifo]
  rfl

/-- A polled read is then armed. -/
theorem polling_pollArmed (hp : p.readyToPoll) (hc : control.getLsbD 0 = true) (hdir : control.getLsbD 1 = true) (hcmd : command.toNat < 64) :
    (p.pollArmed clear status argument timeout length control command).polling := by
  obtain ⟨hfifo, hflags, hidma⟩ := hp
  have hregs := pollArmed_registers (timeout := timeout) (length := length) (clear := clear) (status := status) (argument := argument) hc hcmd p
  have hdctrl : (p.pollArmed clear status argument timeout length control command).dctrl = control := (congrArg Periph.dctrl hregs :)
  have hctrl : (p.pollArmed clear status argument timeout length control command).idmactrl = p.idmactrl := (congrArg Periph.idmactrl hregs :)
  refine ⟨?_, ?_, ?_, pollArmed_flags hc hcmd hflags, (congrArg Periph.fifo hregs :).trans hfifo⟩
  · rw [Periph.dten, hdctrl, hc]
  · rw [toController, hdctrl, hdir]
  · rw [Periph.idmaen, hctrl]
    exact hidma

end

end Sys2Proof.Machine

/-! SUPPORT. findSCR and sendSDStatus over their scripts, and how findSCR fails (43 R281, R283, 44 R330, R331). -/

namespace Sys2Proof.Machine

section
variable {s t : State} {i : Sdmmc} {x rest : List (List Move)} {p q : Periph} {n : Session} {c : Bool} {cs : List Point} {e : Err}
  {status w0 w1 flags : Word} {rca : BitVec 16} {words : List Word}

theorem padWords_full {limit : Nat} (h : words.length = limit) : Runs (padWords limit words) s words s := by
  rw [padWords, h, Nat.sub_self]
  exact Runs.pure.bind (by rw [List.append_nil]; exact Runs.pure)

/-! ### findSCR (43 R281) -/

/-- Two words received are the SCR (43 R283). -/
theorem scrFrom_reads {caller : ScrCaller} {got : List Word}
    (h : Runs (polledRead (hostIn cs) scrPoints 2 (.scrLoop caller) got) (s.left i x p n c) (.ok, [w0, w1]) (s.left i rest q n c)) :
    Runs (scrFrom (hostIn cs) caller got) (s.left i x p n c) .ok (s.left i rest q { n with scr := .written ⟨bswap w0, bswap w1⟩ } c) := by
  refine h.bind (Runs.of_pos rfl ((padWords_full (words := [w0, w1]) (limit := 2) rfl).bind ((sessionWrite_left _).bind ((sessionWrite_left _).bind ?_))))
  exact Runs.returned

/-- A data error is returned. -/
theorem scrFrom_error {caller : ScrCaller} {got : List Word} (he : e ≠ .ok)
    (h : Runs (polledRead (hostIn cs) scrPoints 2 (.scrLoop caller) got) (s.left i x p n c) (e, words) t) :
    Runs (scrFrom (hostIn cs) caller got) (s.left i x p n c) e t := h.bind (Runs.of_neg he Runs.pure)

theorem drawWord_left : Runs drawWord (s.left i rest p n c) (Config.freeWord s.draws) ((s.setDraws (s.draws + 1)).left i rest p n c) :=
  fun h => ⟨h, by cases i <;> rfl⟩

theorem missingWords_succ {k : Nat} {ws : List Word} (h : Runs (missingWords k) ((s.setDraws (s.draws + 1)).left i rest p n c) ws t) :
    Runs (missingWords (k + 1)) (s.left i rest p n c) (Config.freeWord s.draws :: ws) t := drawWord_left.bind (h.bind Runs.pure)

/-- Two words not received are free values. -/
theorem padWords_missing : Runs (padWords 2 []) (s.left i rest p n c) [Config.freeWord s.draws, Config.freeWord (s.draws + 1)]
    ((s.setDraws (s.draws + 2)).left i rest p n c) :=
  (missingWords_succ (missingWords_succ (k := 0) Runs.pure)).bind Runs.pure

theorem scrFrom_missing {caller : ScrCaller}
    (h : Runs (polledRead (hostIn cs) scrPoints 2 (.scrLoop caller) []) (s.left i x p n c) (.ok, []) (s.left i rest q n c)) :
    Runs (scrFrom (hostIn cs) caller []) (s.left i x p n c) .ok ((s.setDraws (s.draws + 2)).left i rest q
      { n with scr := .written ⟨bswap (Config.freeWord s.draws), bswap (Config.freeWord (s.draws + 1))⟩ } c) := by
  refine h.bind (Runs.of_pos rfl (padWords_missing.bind ((sessionWrite_left _).bind ((sessionWrite_left _).bind ?_))))
  exact Runs.returned

/-- The controller at the poll of `findSCR`. -/
abbrev Periph.scrArmed (p : Periph) (clear status timeout : Word) (rca : BitVec 16) : Periph :=
  p.pollArmed clear status (rcaArgument rca) timeout 8 scrControl 51

/-- `findSCR` up to its poll. -/
theorem findSCR_polls {caller : ScrCaller} (hi : n.bound = some i) (hrca : n.rca = some rca) (hst : decodeCardStatus status = .ok)
    (h : Runs (scrFrom (hostIn cs) caller []) (s.left i rest (p.scrArmed s.clearMask status s.cfg.dtimer rca) n false) e t) :
    Runs (findSCR (hostIn cs) caller) (s.left i (shortScript i 16 status ++ shortScript i 55 status ++ quiet 3 ++ shortScript i 51 status ++ rest) p n c)
      e t := by
  simp only [List.append_assoc]
  exact polledCommands_left hi hrca hst (by decide) h

/-- `findSCR` over its script. -/
theorem findSCR_reads {caller : ScrCaller} (hi : n.bound = some i) (hrca : n.rca = some rca) (hst : decodeCardStatus status = .ok)
    (hp : p.readyToPoll) : Runs (findSCR (hostIn cs) caller) (s.left i (scrScript i status w0 w1 ++ rest) p n c) .ok
      (s.left i rest (p.scrArmed s.clearMask status s.cfg.dtimer rca).readOut { n with scr := .written ⟨bswap w0, bswap w1⟩ } false) := by
  rw [scrScript, List.append_assoc]
  exact findSCR_polls hi hrca hst (scrFrom_reads (polledRead_script hi (polling_pollArmed hp (by decide) (by decide) (by decide)) rfl))

/-! ### sendSDStatus (44 R330) -/

/-- Sixteen words received are the SD status. -/
theorem ssrFrom_reads {caller : SsrCaller} {got : List Word} (hlen : words.length = 16)
    (h : Runs (polledRead (hostIn cs) ssrPoints 16 (.ssrLoop caller) got) (s.left i x p n c) (.ok, words) (s.left i rest q n c)) :
    Runs (ssrFrom (hostIn cs) caller got) (s.left i x p n c) .ok (({ s with ssr := words.flatMap wordBytes } : State).left i rest q n c) := by
  refine h.bind (Runs.of_pos rfl ((padWords_full hlen).bind ?_))
  exact (Runs.update (t := ({ s with ssr := words.flatMap wordBytes } : State).left i rest q n c) (fun _ => by cases i <;> rfl)).bind Runs.returned

/-- The controller at the poll of `sendSDStatus`. -/
abbrev Periph.ssrArmed (p : Periph) (clear status timeout : Word) (rca : BitVec 16) : Periph :=
  p.pollArmed clear status (rcaArgument rca) timeout 64 ssrControl 13

/-- `sendSDStatus` over its script. -/
theorem sendSDStatus_reads {caller : SsrCaller} (hi : n.bound = some i) (hrca : n.rca = some rca) (hst : decodeCardStatus status = .ok)
    (hp : p.readyToPoll) (hlen : words.length = 16) :
    Runs (sendSDStatus (hostIn cs) caller) (s.left i (ssrScript i status words ++ rest) p n c) .ok
      (({ s with ssr := words.flatMap wordBytes } : State).left i rest (p.ssrArmed s.clearMask status s.cfg.dtimer rca).readOut n false) := by
  obtain ⟨w, ws, rfl⟩ : ∃ w ws, words = w :: ws := List.exists_cons_of_length_pos (by omega)
  simp only [ssrScript, List.append_assoc]
  exact polledCommands_left hi hrca hst (by decide) (ssrFrom_reads hlen
    (polledRead_script hi (polling_pollArmed hp (by decide) (by decide) (by decide)) hlen))

end

end Sys2Proof.Machine

/-! SUPPORT. What the polled reads give: the SCR (43 R283) and the SD status (44 R331). -/

namespace Sys2Proof.Machine

/-! ### findSCR -/

section
variable {p : Periph} {clear status argument timeout length control command : Word}

theorem readOut_sta (p : Periph) : p.readOut.sta &&& staticFlags = 0 := clearedBy_staticFlags_and _

/-- A read leaves the registers as armed, the data phase ended, the FIFO empty. -/
theorem readOut_registers (hc : control.getLsbD 0 = true) (hcmd : command.toNat < 64) : CommandRegistersOnly
    { p with dtimer := timeout, dlen := length, dctrl := control &&& ~~~(1 : Word), dmaCount := 0, fifo := [] }
    (p.pollArmed clear status argument timeout length control command).readOut := by
  have hregs := pollArmed_registers (timeout := timeout) (length := length) (clear := clear) (status := status) (argument := argument) hc hcmd p
  exact CommandRegistersOnly.trans (congrArg (fun q : Periph => { q with dctrl := q.dctrl &&& ~~~(1 : Word), fifo := [] }) hregs :) rfl

theorem hasFlag_or {x f m : Word} (h : hasFlag x m = true) : hasFlag (x ||| f) m = true := by
  refine bne_iff_ne.2 (fun h0 => bne_iff_ne.1 h ?_)
  rw [BitVec.and_or_distrib_right] at h0
  exact (BitVec.or_eq_zero_iff.1 h0).1

end

theorem dataActive_of_polling {p : Periph} (h : p.polling) : p.dataActive = true := by rw [Periph.dataActive, h.dten, Bool.true_or]

/-- Settles O41: the read gives two words, an error, or none. -/
theorem findScrReadsTheScr : Obligations.FindScrReadsTheScr := by
  unfold Obligations.FindScrReadsTheScr
  intro s i rca status w0 w1 flags rest hi hrca hp hst
  have hpolling : ((s.periph i).scrArmed s.clearMask status s.cfg.dtimer rca).polling :=
    polling_pollArmed hp (by decide) (by decide) (by decide)
  have hactive := dataActive_of_polling hpolling
  obtain ⟨hdten, hdir, hidma, hflags, hfifo⟩ := hpolling
  refine ⟨fun hs => ?_, fun hs hf => ?_, fun hs => ?_⟩
  · obtain ⟨t, hexec, honly, hsession, hperiph⟩ := Runs.returns hs (findSCR_reads (cs := []) (caller := .host) hi hrca hst hp) .findSCR .err
    have hregs : CommandRegistersOnly _ (t.periph i) := hperiph ▸ readOut_registers (by decide) (by decide)
    exact ⟨t, hexec, honly, ⟨_, hsession, rfl, rfl⟩, (congrArg Periph.fifo hregs :), (congrArg Periph.dtimer hregs :), (congrArg Periph.dlen hregs :),
      (congrArg Periph.dctrl hregs :), hperiph ▸ readOut_sta _, (congrArg Periph.clkcr hregs :), (congrArg Periph.mask hregs :)⟩
  · rw [List.append_assoc, List.append_assoc] at hs
    have hrun := ((findSCR_polls (cs := []) (caller := .host) (rest := [.dataFlags i flags, .dataPhaseEnd i] :: [] :: rest) hi hrca hst
      (scrFrom_error (pollError_ne_ok hf) (polledRead_error (by exact hi) hflags hf (turns_dataEnded hactive flags) rfl))).start i hs)
    refine ⟨_, hrun.finish, by simp, rfl, by simp, ?_⟩
    rw [← pollError_eq hf]
    rfl
  · rw [List.append_assoc, List.append_assoc] at hs
    have hrun := ((findSCR_polls (cs := []) (caller := .host) (rest := [.dataFlags i dataend, .dataPhaseEnd i] :: [] :: [] :: rest) hi hrca hst
      (scrFrom_missing (polledRead_empty (by exact hi) hflags hidma (by decide) ?_ (turns_dataEnded hactive dataend) rfl))).start i hs)
    · exact ⟨_, hrun.finish, rfl, by simp, by simp, by simp⟩
    · exact hasFlag_or (pollArmed_rxfifoe (by decide) hp.1 _)

/-! ### The SD status (44 R330, R331) -/

theorem foldl_bytes_lt (b : List Byte) (k : Nat) : b.foldl (fun n x => n * 256 + x.toNat) k < (k + 1) * 256 ^ b.length := by
  induction b generalizing k with
  | nil => simp
  | cons x b ih =>
    have hx : x.toNat < 256 := x.isLt
    calc (x :: b).foldl (fun n x => n * 256 + x.toNat) k < (k * 256 + x.toNat + 1) * 256 ^ b.length := ih _
      _ ≤ ((k + 1) * 256) * 256 ^ b.length := Nat.mul_le_mul_right _ (by omega)
      _ = (k + 1) * 256 ^ (x :: b).length := by rw [Nat.mul_assoc, ← Nat.pow_succ']; rfl

/-- A field of a word made of bytes, the first byte the highest. -/
theorem toNat_field_ofBytes {b : List Byte} {w : Nat} (hw : w = 8 * b.length) (hi lo : Nat) :
    ((BitVec.ofNat w (b.foldl (fun n x => n * 256 + x.toNat) 0)).extractLsb hi lo).toNat = ssrField b hi lo := by
  have hlt : b.foldl (fun n x => n * 256 + x.toNat) 0 < 2 ^ w := by
    rw [hw, Nat.pow_mul]
    exact Nat.lt_of_lt_of_eq (foldl_bytes_lt b 0) (Nat.one_mul _)
  rw [BitVec.extractLsb_toNat, BitVec.toNat_ofNat, Nat.mod_eq_of_lt hlt, Nat.shiftRight_eq_div_pow, ssrField]

/-- A field of the 64 status bytes. -/
theorem toNat_ssrBits_field {b : List Byte} (hb : b.length = 64) (hi lo : Nat) : ((ssrBits b).extractLsb hi lo).toNat = ssrField b hi lo :=
  toNat_field_ofBytes (by rw [hb]) hi lo

theorem sdStatusOf_agrees {b : List Byte} (hb : b.length = 64) : (sdStatusOf b).agrees b := by
  unfold SdStatus.agrees
  and_intros <;> exact toNat_ssrBits_field hb _ _

theorem length_flatMap_wordBytes (words : List Word) : (words.flatMap wordBytes).length = 4 * words.length := by
  induction words with
  | nil => rfl
  | cons w ws ih =>
    rw [List.flatMap_cons, List.length_append, ih, List.length_cons, Nat.mul_succ, Nat.add_comm]
    rfl

/-- The bytes of a word stand together, the low byte first (44 R330). -/
theorem getD_flatMap_wordBytes (words : List Word) {w j : Nat} (hw : w < words.length) (hj : j < 4) :
    (words.flatMap wordBytes).getD (4 * w + j) 0 = (words.getD w 0).extractLsb' (8 * j) 8 := by
  induction words generalizing w with
  | nil => exact absurd hw (Nat.not_lt_zero _)
  | cons x ws ih =>
    cases w with
    | zero =>
      obtain rfl | rfl | rfl | rfl : j = 0 ∨ j = 1 ∨ j = 2 ∨ j = 3 := by omega
      all_goals rfl
    | succ w =>
      rw [show 4 * (w + 1) + j = 4 * w + j + 1 + 1 + 1 + 1 by omega]
      exact ih (Nat.lt_of_succ_lt_succ hw)

section
variable {s : State} {i : Sdmmc} {rest : List (List Move)} {p : Periph} {n : Session} {c : Bool} {cs : List Point}

/-- The parsed status goes to the session and to the caller's structure. -/
theorem storeSdStatus_left (out : Word) : Runs (storeSdStatus (hostIn cs) out) (s.left i rest p n c) .ok
    (({ s with structs := (out, sdStatusOf s.ssr) :: s.structs.filter (fun x => x.1 != out) } : State).left i rest p
      { n with sdStatus := some (sdStatusOf s.ssr) } c) := by
  refine Runs.getState_bind (fun _ => ?_)
  rw [State.setHostStep_ssr, State.left_ssr]
  exact (sessionWrite_left _).bind ((Runs.update (fun _ => by cases i <;> rfl)).bind Runs.pure)

end

/-- Settles O53: the words of the FIFO are the status bytes. -/
theorem cardStatusReads : Obligations.CardStatusReads := by
  unfold Obligations.CardStatusReads
  intro s i rca status out words rest hi hrca hp hst hlen hs
  have hbytes : (words.flatMap wordBytes).length = 64 := by rw [length_flatMap_wordBytes, hlen]
  refine ⟨?_, ?_⟩
  · have hrun := (sendSDStatus_reads (cs := []) (caller := .host) hi hrca hst hp hlen).start i hs
    have hregs := readOut_registers (p := s.periph i) (clear := s.clearMask) (status := status) (argument := rcaArgument rca) (timeout := s.cfg.dtimer)
      (length := 64) (control := ssrControl) (command := 13) (by decide) (by decide)
    refine ⟨_, hrun.finish, ?_, by simp, ?_, ?_, ?_, ?_, ?_, ?_⟩
    · rw [State.setReturn_ssr, State.left_ssr]
      exact controllerOnly_left _
    · rw [State.setReturn_ssr, State.left_ssr, hbytes]
    · intro w hw j hj
      rw [State.setReturn_ssr, State.left_ssr]
      exact getD_flatMap_wordBytes words (by omega) hj
    · rw [State.setReturn_periph, State.left_periph]
      exact (congrArg Periph.dlen hregs :)
    · rw [State.setReturn_periph, State.left_periph]
      exact (congrArg Periph.dctrl hregs :)
    · rw [State.setReturn_periph, State.left_periph]
      exact (congrArg Periph.dtimer hregs :)
    · simpa using readOut_sta _
  · have hrun := ((sendSDStatus_reads (cs := [⟨.sdGetCardStatus, 1, 0⟩]) (caller := .getCardStatus out) hi hrca hst hp hlen).thenOk
      (storeSdStatus_left (cs := []) out)).start i hs
    refine ⟨_, sdStatusOf (words.flatMap wordBytes), hrun.finish, ?_, by simp, ?_, by simp, by simp, fun a y ha => by simp [ha], fun y hy => ?_⟩
    · rw [State.setReturn_ssr, State.left_ssr, State.setReturn_structs, State.left_structs]
      exact controllerOnly_left _
    · rw [State.setReturn_ssr, State.left_ssr]
      exact sdStatusOf_agrees hbytes
    · simpa using hy

end Sys2Proof.Machine

/-! SUPPORT. wideBusOperationConfig over its script: the settle loop, the width commands, what turns it away (43 R285 to R291). -/

namespace Sys2Proof.Machine

/-! ### The width field of CLKCR (43 R290) -/

section
variable {c : Word} {a b code : BitVec 2} {p : Periph}

/-- The other bits of the register are kept. -/
theorem withWidbus_others (c : Word) (a : BitVec 2) : withWidbus c a &&& ~~~0xC000 = c &&& ~~~0xC000 := by
  have h : (a.setWidth 32 <<< 14 : Word) &&& ~~~0x0000C000 = 0#32 := by revert a; decide
  rw [withWidbus, BitVec.and_or_distrib_right, h, BitVec.and_assoc, BitVec.and_self, BitVec.or_zero]

theorem withWidbus_withWidbus (c : Word) (a b : BitVec 2) : withWidbus (withWidbus c a) b = withWidbus c b := by
  rw [withWidbus, withWidbus_others]
  rfl

@[simp] theorem widbus_withWidbus (c : Word) (a : BitVec 2) : widbus (withWidbus c a) = a := by
  have h : (~~~(0x0000C000 : Word)).extractLsb' 14 2 = 0 := by decide
  rw [widbus, withWidbus, BitVec.extractLsb'_or, BitVec.extractLsb'_and, h]
  revert a
  simp
  decide

theorem withWidbus_value (p : Periph) (code : BitVec 2) : withWidbus (p.value .clkcr) code = withWidbus p.clkcr code := by
  rw [Periph.value]
  split
  · exact withWidbus_withWidbus _ _ _
  · rfl

theorem withWidbus_self (c : Word) : withWidbus c (widbus c) = c := by
  have hmask : ∀ j < 32, (~~~(0x0000C000 : Word)).getLsbD j = (decide (j < 14) || decide (16 ≤ j)) := by decide
  refine BitVec.eq_of_getLsbD_eq (fun j hj => ?_)
  simp only [withWidbus, widbus, BitVec.getLsbD_or, BitVec.getLsbD_and, hmask j hj, BitVec.getLsbD_shiftLeft, BitVec.getLsbD_setWidth,
    BitVec.getLsbD_extractLsb']
  by_cases hlow : j < 14
  · simp [hlow]
  · by_cases hhigh : 16 ≤ j
    · simp [hlow, hhigh, show ¬j - 14 < 2 by omega]
    · simp [hlow, hhigh, hj, show j - 14 < 2 by omega, show j - 14 < 32 by omega, show 14 + (j - 14) = j by omega]

/-- The controller after a settle iteration wrote the width code (43 R290). -/
def Periph.switched (p : Periph) (code : BitVec 2) : Periph := p.write .clkcr (withWidbus p.clkcr code)

/-- Reads of `CLKCR` show the old width, or no longer (43 R291). -/
def Periph.showing (p : Periph) (stale : Bool) : Periph := { p with widStale := stale }

theorem Periph.showing_self (p : Periph) (h : p.widStale = false) : p.showing false = p := by rw [← h]; rfl

theorem Periph.switched_clkcr (p : Periph) (code : BitVec 2) : (p.switched code).clkcr = withWidbus p.clkcr code := rfl

theorem Periph.switched_widbus (p : Periph) (code : BitVec 2) : widbus (p.switched code).clkcr = code := widbus_withWidbus _ _

theorem Periph.switched_switched (p : Periph) (code : BitVec 2) : (p.switched code).switched code = p.switched code := by
  have hw : withWidbus (p.switched code).clkcr code = (p.switched code).clkcr := withWidbus_withWidbus _ _ _
  rw [Periph.switched, hw, Periph.write, if_pos rfl]

/-- A width that is already there is not written. -/
theorem Periph.switched_self (h : widbus p.clkcr = code) : p.switched code = p := by
  rw [Periph.switched, ← h, withWidbus_self, Periph.write, if_pos rfl]

theorem Periph.switched_prev (h : widbus p.clkcr ≠ code) : (p.switched code).widPrev ≠ code := by
  show (if widbus (withWidbus p.clkcr code) = widbus p.clkcr then p.widPrev else widbus p.clkcr) ≠ code
  rwa [widbus_withWidbus, if_neg (Ne.symm h)]

theorem Periph.switched_widStale (p : Periph) (code : BitVec 2) : (p.switched code).widStale = p.widStale := rfl

theorem Periph.showing_switched_showing (p : Periph) (code : BitVec 2) (x y : Bool) :
    (((p.switched code).showing x).switched code).showing y = (p.switched code).showing y := by
  rw [show ((p.switched code).showing x).switched code = ((p.switched code).switched code).showing x from rfl, Periph.switched_switched]
  rfl

theorem widbus_fresh (h : p.widStale = false) : widbus (p.value .clkcr) = widbus p.clkcr := by rw [Periph.value, h, if_neg (by decide)]

theorem widbus_stale (h : p.widStale = true) : widbus (p.value .clkcr) = p.widPrev := by rw [Periph.value, h, if_pos rfl, widbus_withWidbus]

end

/-! ### The settle loop (43 R290, R291) -/

section
variable {s t : State} {i : Sdmmc} {moves : List Move} {x rest : List (List Move)} {p q : Periph} {n : Session} {c : Bool} {cs : List Point} {e : Err}
  {caller : WideCaller} {code : BitVec 2} {k : Nat}

theorem turns_showing (b : Bool) : Turns i [.staleWidbus i b] p (p.showing b) := .single rfl (fun u hu => by rw [applyEnv, hu]; rfl)

/-- An iteration up to its last read. -/
theorem settle_round (hi : n.bound = some i) (hm : Turns i moves (p.switched code) q) {f : Word → Act Err}
    (h : Runs (f (q.value .clkcr)) (s.left i rest q n c) e t) : Runs (do
      (hostIn cs).pass .wideBusOperationConfig [(10, 0)]
      let c ← regRead (hostIn cs) ⟨.wideBusOperationConfig, 11, 1⟩ .clkcr
      regWrite (hostIn cs) ⟨.wideBusOperationConfig, 12, 1⟩ .clkcr (withWidbus c code)
      let back ← regRead (hostIn cs) ⟨.wideBusOperationConfig, 13, 1⟩ .clkcr
      f back) (s.left i ([] :: [] :: moves :: rest) p n c) e t := by
  refine Runs.passed ((regRead_left hi rfl (by decide)).bind ?_)
  rw [withWidbus_value]
  exact (regWrite_left hi rfl _ _).bind ((regRead_turns hi hm (by decide)).bind h)

/-- The iteration that reads the new width. -/
theorem settleLoop_settled (hi : n.bound = some i) (hm : Turns i moves (p.switched code) q) (hq : widbus (q.value .clkcr) = code) :
    Runs (settleLoop (hostIn cs) caller code (k + 1)) (s.left i ([] :: [] :: moves :: rest) p n c) .ok (s.left i rest q n c) :=
  settle_round hi hm (Runs.of_pos hq Runs.returned)

/-- An iteration that reads another. -/
theorem settleLoop_again (hi : n.bound = some i) (hm : Turns i moves (p.switched code) q) (hq : widbus (q.value .clkcr) ≠ code)
    (h : Runs (settleLoop (hostIn cs) caller code k) (s.left i rest q n c) e t) :
    Runs (settleLoop (hostIn cs) caller code (k + 1)) (s.left i ([] :: [] :: moves :: rest) p n c) e t :=
  settle_round hi hm (Runs.of_neg hq h)

theorem settle_left (h : Runs (settleLoop (hostIn cs) caller code (x.length + 1)) (s.left i x p n c) e t) :
    Runs (settle (hostIn cs) caller code) (s.left i x p n c) e t := by
  refine Runs.getState_bind (fun _ => ?_)
  rwa [State.setHostStep_sched, State.left_sched]

/-- The first read shows the new width. -/
theorem settle_now (hi : n.bound = some i) (hp : p.widStale = false) :
    Runs (settle (hostIn cs) caller code) (s.left i (quiet 3 ++ rest) p n c) .ok (s.left i rest (p.switched code) n c) :=
  settle_left (settleLoop_settled hi Turns.nil ((widbus_fresh (p := p.switched code) hp).trans (p.switched_widbus code)))

theorem settleScript_zero (i : Sdmmc) (rest : List (List Move)) : settleScript i 0 ++ rest = [] :: [] :: [.staleWidbus i false] :: rest := rfl

theorem settleScript_succ (i : Sdmmc) (m : Nat) (rest : List (List Move)) :
    settleScript i (m + 1) ++ rest = [] :: [] :: [.staleWidbus i true] :: (settleScript i m ++ rest) := by
  simp [settleScript, quiet, List.replicate_succ]

theorem settleScript_length (i : Sdmmc) (m : Nat) : (settleScript i m).length = 3 * m + 3 := by
  simp [settleScript, quiet]
  omega

/-- Stale reads, then a fresh one. -/
theorem settleLoop_script (hi : n.bound = some i) (hp : (p.switched code).widPrev ≠ code) (m k : Nat) :
    Runs (settleLoop (hostIn cs) caller code (k + m + 1)) (s.left i (settleScript i m ++ rest) p n c) .ok
      (s.left i rest ((p.switched code).showing false) n c) := by
  induction m generalizing p with
  | zero =>
    rw [settleScript_zero]
    exact settleLoop_settled hi (turns_showing false) ((widbus_fresh rfl).trans (p.switched_widbus code))
  | succ m ih =>
    rw [settleScript_succ]
    have hprev : (((p.switched code).showing true).switched code).widPrev ≠ code := by
      rw [show ((p.switched code).showing true).switched code = ((p.switched code).switched code).showing true from rfl, Periph.switched_switched]
      exact hp
    have hrest := ih hprev
    rw [Periph.showing_switched_showing] at hrest
    exact settleLoop_again hi (turns_showing true) (by rwa [widbus_stale rfl]) hrest

theorem settle_script (hi : n.bound = some i) (hp : widbus p.clkcr ≠ code) (m : Nat) :
    Runs (settle (hostIn cs) caller code) (s.left i (settleScript i m ++ rest) p n c) .ok
      (s.left i rest ((p.switched code).showing false) n c) := by
  refine settle_left ?_
  rw [List.length_append, settleScript_length, show 3 * m + 3 + rest.length + 1 = (2 * m + 3 + rest.length) + m + 1 by omega]
  exact settleLoop_script hi (Periph.switched_prev hp) m _

end

/-! ### The wide-bus negotiation (43 R285 to R288) -/

section
variable {s t : State} {i : Sdmmc} {rest : List (List Move)} {p : Periph} {n : Session} {c : Bool} {cs : List Point} {e : Err}
  {caller : WideCaller} {mode : BusMode} {w : BusWidth} {scr : Scr} {status w0 w1 clear : Word} {rca : BitVec 16} {t0 : CardType}

/-- The controller when the card has accepted the width (43 R288). -/
def Periph.widthAccepted (p : Periph) (clear status : Word) (rca : BitVec 16) (w : BusWidth) : Periph :=
  (p.answeredShort clear 55 (rcaArgument rca) 1 55 status).answeredShort clear 6 (widthArgument w) 1 6 status

theorem widthAccepted_registers (p : Periph) (clear status : Word) (rca : BitVec 16) (w : BusWidth) :
    CommandRegistersOnly p (p.widthAccepted clear status rca w) :=
  (commandSent_answeredShort p clear (c := 55) (by decide) _ 1 55 status).registers.trans
    (commandSent_answeredShort _ clear (c := 6) (by decide) _ 1 6 status).registers

/-- A supported width is sent to the card, then written. -/
theorem wideBusAfterScr_settles (hi : n.bound = some i) (hscr : n.scr.value = some scr) (hw : widthSupported scr w = true) (hrca : n.rca = some rca)
    (hst : decodeCardStatus status = .ok)
    (h : Runs (settle (hostIn cs) caller (widbusCode w)) (s.left i rest (p.widthAccepted s.clearMask status rca w) n false) e t) :
    Runs (wideBusAfterScr (hostIn cs) caller w) (s.left i (shortScript i 55 status ++ (shortScript i 6 status ++ rest)) p n c) e t :=
  (Runs.readOr (fun _ => by simpa using hscr)).bind (Runs.passed (Runs.of_pos hw ((Runs.readRcaArg (by simpa using hrca)).bind
    ((accepted_left hi (by decide) _ hst).thenOk ((accepted_left hi (by decide) _ hst).thenOk (Runs.passed h))))))

/-- A width that the SCR does not list. -/
theorem wideBusAfterScr_unsupported (hscr : n.scr.value = some scr) (hw : widthSupported scr w = false) :
    Runs (wideBusAfterScr (hostIn cs) caller w) (s.left i rest p n c) .requestNotApplicable (s.left i rest p n c) :=
  (Runs.readOr (fun _ => by simpa using hscr)).bind (Runs.passed (Runs.of_neg (by simp [hw]) Runs.returned))

/-- A class outside the SD family, or 8-bit (43 R285). -/
theorem wideBus_unsupported (ht : s.session.cardType = some t0)
    (h : ¬(t0 = .standardV1_1 ∨ t0 = .standardV2_0 ∨ t0 = .highCapacity) ∨ mode = .w8) :
    Runs (wideBusOperationConfig (hostIn cs) caller mode) s .unsupportedFeature s := by
  refine (Runs.readCardType ht).bind (Runs.passed ?_)
  by_cases hf : t0 = .standardV1_1 ∨ t0 = .standardV2_0 ∨ t0 = .highCapacity
  · exact Runs.of_pos hf (Runs.passed (Runs.of_pos (h.resolve_left (not_not_intro hf)) Runs.pure))
  · exact Runs.of_neg hf Runs.returned

/-- The read of the lock bit. -/
theorem wideBus_lockRead (hi : n.bound = some i) (ht : n.cardType = some t0) (hf : t0 = .standardV1_1 ∨ t0 = .standardV2_0 ∨ t0 = .highCapacity)
    (hm : mode ≠ .w8) (h : Runs (if p.resp1.getLsbD 25 then do
          (hostIn cs).pass .wideBusOperationConfig [(3, 2)]
          pure .lockUnlockFailed
        else thenOk (findSCR ((hostIn cs).call ⟨.wideBusOperationConfig, 4, 0⟩) (.wideBus mode caller))
          (wideBusAfterScr (hostIn cs) caller (widthOfMode mode))) (s.left i rest p n c) e t) :
    Runs (wideBusOperationConfig (hostIn cs) caller mode) (s.left i ([] :: rest) p n c) e t :=
  (Runs.readCardType (by simpa using ht)).bind (Runs.passed (Runs.of_pos hf (Runs.passed (Runs.of_neg hm ((regRead_left hi rfl (by decide)).bind h)))))

/-- A locked card (43 R286). -/
theorem wideBus_locked (hi : n.bound = some i) (ht : n.cardType = some t0) (hf : t0 = .standardV1_1 ∨ t0 = .standardV2_0 ∨ t0 = .highCapacity)
    (hm : mode ≠ .w8) (hl : p.resp1.getLsbD 25 = true) :
    Runs (wideBusOperationConfig (hostIn cs) caller mode) (s.left i ([] :: rest) p n c) .lockUnlockFailed (s.left i rest p n c) :=
  wideBus_lockRead hi ht hf hm (Runs.of_pos hl Runs.returned)

/-- The controller when `wideBusOperationConfig` has read the SCR. -/
abbrev Periph.scrRead (p : Periph) (clear status timeout : Word) (rca : BitVec 16) : Periph := (p.scrArmed clear status timeout rca).readOut

/-- An unlocked card, whose SCR is read (43 R286). -/
theorem wideBus_reads (hi : n.bound = some i) (ht : n.cardType = some t0) (hf : t0 = .standardV1_1 ∨ t0 = .standardV2_0 ∨ t0 = .highCapacity)
    (hm : mode ≠ .w8) (hl : p.resp1.getLsbD 25 = false) (hrca : n.rca = some rca) (hst : decodeCardStatus status = .ok) (hp : p.readyToPoll)
    (h : Runs (wideBusAfterScr (hostIn cs) caller (widthOfMode mode)) (s.left i rest (p.scrRead s.clearMask status s.cfg.dtimer rca)
      { n with scr := .written ⟨bswap w0, bswap w1⟩ } false) e t) :
    Runs (wideBusOperationConfig (hostIn cs) caller mode) (s.left i ([] :: (scrScript i status w0 w1 ++ rest)) p n c) e t :=
  wideBus_lockRead hi ht hf hm (Runs.of_neg (Bool.not_eq_true _ ▸ hl) ((findSCR_reads hi hrca hst hp).thenOk h))

/-- A width that the SCR does not list (43 R287). -/
theorem wideBus_unlisted (hi : n.bound = some i) (ht : n.cardType = some t0) (hf : t0 = .standardV1_1 ∨ t0 = .standardV2_0 ∨ t0 = .highCapacity)
    (hm : mode ≠ .w8) (hl : p.resp1.getLsbD 25 = false) (hrca : n.rca = some rca) (hst : decodeCardStatus status = .ok) (hp : p.readyToPoll)
    (hw : widthSupported ⟨bswap w0, bswap w1⟩ (widthOfMode mode) = false) :
    Runs (wideBusOperationConfig (hostIn cs) caller mode) (s.left i ([] :: (scrScript i status w0 w1 ++ rest)) p n c) .requestNotApplicable
      (s.left i rest (p.scrRead s.clearMask status s.cfg.dtimer rca) { n with scr := .written ⟨bswap w0, bswap w1⟩ } false) :=
  wideBus_reads hi ht hf hm hl hrca hst hp (wideBusAfterScr_unsupported rfl hw)

/-- The controller when the width is negotiated, before the settle loop. -/
def Periph.widthNegotiated (p : Periph) (clear status timeout : Word) (rca : BitVec 16) (w : BusWidth) : Periph :=
  (p.scrRead clear status timeout rca).widthAccepted clear status rca w

/-- A supported width, up to the settle loop (43 R288). -/
theorem wideBus_settles (hi : n.bound = some i) (ht : n.cardType = some t0) (hf : t0 = .standardV1_1 ∨ t0 = .standardV2_0 ∨ t0 = .highCapacity)
    (hl : p.resp1.getLsbD 25 = false) (hrca : n.rca = some rca) (hst : decodeCardStatus status = .ok) (hp : p.readyToPoll)
    (hw : widthSupported ⟨bswap w0, bswap w1⟩ w = true)
    (h : Runs (settle (hostIn cs) caller (widbusCode w)) (s.left i rest (p.widthNegotiated s.clearMask status s.cfg.dtimer rca w)
      { n with scr := .written ⟨bswap w0, bswap w1⟩ } false) e t) :
    Runs (wideBusOperationConfig (hostIn cs) caller (modeOfWidth w))
      (s.left i ([] :: (scrScript i status w0 w1 ++ (shortScript i 55 status ++ (shortScript i 6 status ++ rest)))) p n c) e t := by
  have hmode : widthOfMode (modeOfWidth w) = w := by cases w <;> rfl
  refine wideBus_reads hi ht hf (by cases w <;> decide) hl hrca hst hp ?_
  rw [hmode]
  exact wideBusAfterScr_settles (by exact hi) rfl hw (by exact hrca) hst h

/-- Nothing of the controller but the data path and the command registers is changed by the negotiation. -/
theorem widthNegotiated_registers (p : Periph) (clear status timeout : Word) (rca : BitVec 16) (w : BusWidth) :
    CommandRegistersOnly { p with dtimer := timeout, dlen := 8, dctrl := scrControl &&& ~~~(1 : Word), dmaCount := 0, fifo := [] }
      (p.widthNegotiated clear status timeout rca w) :=
  (readOut_registers (by decide) (by decide)).trans (widthAccepted_registers _ ..)

/-- The whole negotiation, the settle loop ending at the first read that shows the new width. -/
theorem wideBus_switches {w : BusWidth} {m : Nat} (hi : s.session.bound = some i) (ht : s.session.cardType = some t0)
    (hf : t0 = .standardV1_1 ∨ t0 = .standardV2_0 ∨ t0 = .highCapacity) (hl : (s.periph i).resp1.getLsbD 25 = false)
    (hrca : s.session.rca = some rca) (hst : decodeCardStatus status = .ok) (hp : (s.periph i).readyToPoll) (hstale : (s.periph i).widStale = false)
    (hw : widthSupported ⟨bswap w0, bswap w1⟩ w = true)
    (hs : s.sched = wideScript i status w0 w1 ++ rest ∨ widbus (s.periph i).clkcr ≠ widbusCode w ∧
      s.sched = quiet 1 ++ scrScript i status w0 w1 ++ shortScript i 55 status ++ shortScript i 6 status ++ settleScript i m ++ rest) :
    Runs (wideBusOperationConfig (hostIn cs) caller (modeOfWidth w)) s .ok (s.left i rest
      (((s.periph i).widthNegotiated s.clearMask status s.cfg.dtimer rca w).switched (widbusCode w))
      { s.session with scr := .written ⟨bswap w0, bswap w1⟩ } false) := by
  have hregs := widthNegotiated_registers (s.periph i) s.clearMask status s.cfg.dtimer rca w
  have hfresh : ((s.periph i).widthNegotiated s.clearMask status s.cfg.dtimer rca w).widStale = false := (congrArg Periph.widStale hregs :).trans hstale
  have hclk : ((s.periph i).widthNegotiated s.clearMask status s.cfg.dtimer rca w).clkcr = (s.periph i).clkcr := (congrArg Periph.clkcr hregs :)
  obtain hs | ⟨hwid, hs⟩ := hs
  · simp only [wideScript, List.append_assoc] at hs
    exact (wideBus_settles hi ht hf hl hrca hst hp hw (settle_now (by exact hi) hfresh)).start i hs
  · simp only [List.append_assoc] at hs
    rw [← hclk] at hwid
    have hsettle := settle_script (s := s) (rest := rest) (n := { s.session with scr := .written ⟨bswap w0, bswap w1⟩ }) (c := false) (cs := cs)
      (caller := caller) (by exact hi) hwid m
    rw [Periph.showing_self _ ((Periph.switched_widStale _ _).trans hfresh)] at hsettle
    exact (wideBus_settles hi ht hf hl hrca hst hp hw hsettle).start i hs

end

/-! ### The obligations -/

/-- Settles O43: the settle loop ends at the first read that shows the new width. -/
theorem wideBusSwitchesWidth : Obligations.WideBusSwitchesWidth := by
  unfold Obligations.WideBusSwitchesWidth
  intro s i t0 w rca status w0 w1 m rest hi ht hf hrca hp hst hl hw hstale hs
  have hregs := widthNegotiated_registers (s.periph i) s.clearMask status s.cfg.dtimer rca w
  have hclk : ((s.periph i).widthNegotiated s.clearMask status s.cfg.dtimer rca w).clkcr = (s.periph i).clkcr := (congrArg Periph.clkcr hregs :)
  have hrun := wideBus_switches (cs := []) (caller := .host) (w := w) (m := m) (rest := rest) hi ht hf hl hrca hst hp hstale
    (by cases w <;> exact hw) (by cases w <;> exact hs)
  refine ⟨_, hrun.finish, controllerOnly_left _, by simp, ?_⟩
  rw [State.setReturn_periph, State.left_periph, Periph.switched_clkcr, hclk]
  exact ⟨(widbus_withWidbus _ _).trans (by cases w <;> rfl), withWidbus_others _ _, by cases w <;> rfl, (congrArg Periph.power hregs :),
    (congrArg Periph.mask hregs :)⟩

/-- Settles O44: each check in its order. -/
theorem wideBusTurnedAway : Obligations.WideBusTurnedAway := by
  unfold Obligations.WideBusTurnedAway
  intro s i t0 mode rca status w0 w1 rest hi ht
  refine ⟨fun h => ?_, fun hf hm hl hs => ?_, fun hf hm hl hrca hp hst hw hs => ?_⟩
  · refine (wideBus_unsupported (cs := []) (caller := .host) ht ?_).finish
    obtain rfl | rfl | rfl | h := h
    · exact .inl (by decide)
    · exact .inl (by decide)
    · exact .inl (by decide)
    · exact .inr h
  · exact (Runs.start i hs (wideBus_locked (cs := []) (caller := .host) hi ht hf hm hl)).finish.trans (by cases i <;> rfl)
  · have hw' : widthSupported ⟨bswap w0, bswap w1⟩ (widthOfMode mode) = false := by
      cases mode with
      | w8 => exact absurd rfl hm
      | w1 => exact hw
      | w4 => exact hw
    rw [List.append_assoc] at hs
    obtain ⟨t, hexec, honly, hsession, hperiph⟩ := Runs.returns hs (wideBus_unlisted (cs := []) (caller := .host) hi ht hf hm hl hrca hst hp hw')
      (.wideBusOperationConfig mode) .err
    have hregs := readOut_registers (p := s.periph i) (clear := s.clearMask) (status := status) (argument := rcaArgument rca) (timeout := s.cfg.dtimer)
      (length := 8) (control := scrControl) (command := 51) (by decide) (by decide)
    exact ⟨t, hexec, honly, hperiph ▸ (congrArg Periph.clkcr hregs :), hsession⟩

end Sys2Proof.Machine

/-! SUPPORT. The waits without a budget: how HOST holds and how it goes on (43 R282, R290, R291, 44 R330, 70 R423). -/

namespace Sys2Proof.Machine

section
variable {α : Type} {s t : State} {i : Sdmmc} {x rest : List (List Move)} {p q : Periph} {n : Session} {c : Bool} {cs : List Point} {pt : Point} {e : Err}
  {pts : ReadPoints} {limit k : Nat} {at_ : List Word → Place} {got words : List Word} {w0 w1 : Word} {place : Place}

/-! ### Holding -/

theorem Halts.hold (place : Place) : Halts (.hold place) (Machine.hold place : Act α) s s := fun h => ⟨h, rfl⟩

/-- While no flag ends the read and no word is taken, the loop goes round. -/
theorem fifoLoop_holds (hi : n.bound = some i) (hp : p.sta &&& pollEnd = 0) (hword : hasFlag p.sta rxfifoe = true ∨ got.length = limit) :
    Halts (.hold (at_ got)) (fifoLoop (hostIn cs) pts limit at_ k got) (s.left i [] p n c) (s.left i [] p n c) := by
  induction k with
  | zero => exact .hold _
  | succ k ih =>
    refine Runs.passed_halts ((regRead_left hi rfl (by decide)).bind_halts (Runs.passed_halts (Halts.of_neg ?_ (Runs.passed_halts (Halts.of_neg ?_ ih)))))
    · show ¬hasFlag p.sta pollEnd = true
      simp [hasFlag, hp]
    · show ¬(!hasFlag p.sta rxfifoe && decide (got.length < limit)) = true
      obtain h | h := hword <;> simp [h]

theorem polledRead_holds (hi : n.bound = some i) (hp : p.sta &&& pollEnd = 0) (hword : hasFlag p.sta rxfifoe = true ∨ got.length = limit) :
    Halts (.hold (at_ got)) (polledRead (hostIn cs) pts limit at_ got) (s.left i [] p n c) (s.left i [] p n c) :=
  Halts.getState_bind (fun _ => Halts.bind (fifoLoop_holds hi hp hword))

/-- `HOST` stays where it is while nothing happens. -/
theorem polledRead_waits (hi : s.session.bound = some i) (hs : s.sched = []) (hp : (s.periph i).sta &&& pollEnd = 0)
    (hword : hasFlag (s.periph i).sta rxfifoe = true ∨ got.length = limit) :
    Halts (.hold (at_ got)) (polledRead (hostIn cs) pts limit at_ got) s s := by
  have h := Halts.start i hs (polledRead_holds (s := s) (c := s.appCmd) (cs := cs) (pts := pts) (at_ := at_) hi hp hword)
  rwa [← hs, State.left_self] at h

/-- A settle loop whose read shows the old width. -/
theorem settle_holds {caller : WideCaller} {code : BitVec 2} (hi : n.bound = some i) (hw : widbus p.clkcr = code) (hstale : p.widStale = true)
    (hprev : p.widPrev ≠ code) : Halts (.hold (.settleLoop caller code)) (settle (hostIn cs) caller code) (s.left i [] p n c) (s.left i [] p n c) := by
  refine Halts.getState_bind (fun _ => ?_)
  rw [State.setHostStep_sched, State.left_sched]
  refine Runs.passed_halts ((regRead_left hi rfl (by decide)).bind_halts ?_)
  rw [withWidbus_value]
  have hwrite : p.write .clkcr (withWidbus p.clkcr code) = p := Periph.switched_self hw
  have hback := regWrite_left (s := s) (i := i) (x := []) (p := p) (n := n) (c := c) (cs := cs) (pt := ⟨.wideBusOperationConfig, 12, 1⟩) hi rfl .clkcr
    (withWidbus p.clkcr code)
  rw [hwrite] at hback
  exact hback.bind_halts ((regRead_left hi rfl (by decide)).bind_halts (Halts.of_neg (by rwa [widbus_stale hstale]) (.hold _)))

/-- A `Delay` whose collaborator has not returned. -/
theorem delay_holds (hd : s.delayRuns = true) (caller : PowerCaller) (ms : Nat) :
    Halts (.hold (.delay caller)) (delay (hostIn cs) pt caller ms) (s.left i [] p n c) (s.left i [] p n c) := by
  refine Halts.getState_bind (fun _ => ?_)
  rw [State.setHostStep_sched, State.left_sched]
  exact (step_left rfl).bind_halts (Halts.getState_bind (fun _ => Halts.of_pos (by simpa using hd) (.hold _)))

/-! ### Going on -/

theorem sdInitResult_gives (e : Err) : Runs (sdInitResult (hostIn cs) e) s (e = .ok) s := Runs.returned

theorem returnWide_ok {caller : WideCaller} {m : Act Err} (h : Runs m s .ok t) : returnWide caller m s = .next (t.setReturn .idle caller.succeeding) := by
  cases caller with
  | host => exact h.conclude
  | sdInit => exact (h.bind (sdInitResult_gives .ok)).conclude

/-- `findSCR` goes on to an error. -/
theorem resume_scr_error {caller : ScrCaller} (h : Runs (scrFrom (Place.scrLoop caller words).frame caller words) s e t) (he : e ≠ .ok) :
    resume (.scrLoop caller words) s = .next (t.setReturn .idle (caller.failing e)) := by
  cases caller with
  | host => exact h.conclude
  | wideBus mode outer =>
    cases outer with
    | host => exact (h.thenOk_stop he).conclude
    | sdInit =>
      exact (Runs.conclude (r := .bool) ((h.thenOk_stop he).bind (sdInitResult_gives e))).trans (by rw [decide_eq_false he]; rfl)

theorem resume_scr_holds {caller : ScrCaller} (h : Halts (.hold place) (scrFrom (Place.scrLoop caller words).frame caller words) s t) :
    resume (.scrLoop caller words) s = .next (t.setHostStep (.inside place place.path)) := by
  cases caller with
  | host => exact h.conclude_hold
  | wideBus mode outer =>
    cases outer with
    | host => exact h.thenOk.conclude_hold
    | sdInit => exact h.thenOk.bind.conclude_hold

theorem resume_ssr_error {caller : SsrCaller} (h : Runs (ssrFrom (Place.ssrLoop caller words).frame caller words) s e t) (he : e ≠ .ok) :
    resume (.ssrLoop caller words) s = .next (t.setReturn .idle (.err e)) := by
  cases caller with
  | host => exact h.conclude
  | getCardStatus out => exact (h.thenOk_stop he).conclude

theorem resume_ssr_holds {caller : SsrCaller} (h : Halts (.hold place) (ssrFrom (Place.ssrLoop caller words).frame caller words) s t) :
    resume (.ssrLoop caller words) s = .next (t.setHostStep (.inside place place.path)) := by
  cases caller with
  | host => exact h.conclude_hold
  | getCardStatus out => exact h.thenOk.conclude_hold

theorem resume_settle_holds {caller : WideCaller} {code : BitVec 2}
    (h : Halts (.hold place) (settle (Place.settleLoop caller code).frame caller code) s t) :
    resume (.settleLoop caller code) s = .next (t.setHostStep (.inside place place.path)) := by
  cases caller with
  | host => exact h.conclude_hold
  | sdInit => exact h.bind.conclude_hold

theorem resume_delay_holds {caller : PowerCaller} (h : Halts (.hold place) (powerOnSettled (Place.delay caller).frame caller) s t) :
    resume (.delay caller) s = .next (t.setHostStep (.inside place place.path)) := by
  cases caller with
  | host => exact h.conclude_hold
  | sdInit => exact h.bind.conclude_hold

/-! ### The stages after a powerOn that failed (41 R225) -/

theorem ifOk_skips {line : Nat} {op : Act Err} (he : e ≠ .ok) : Runs (ifOk (hostIn cs) line e op) s e s := Runs.passed (Runs.of_neg he Runs.pure)

/-- No later stage runs. -/
theorem sdInitAfterPower_skips (he : e ≠ .ok) (d : Word) : Runs (sdInitAfterPower (hostIn cs) d e) s e s :=
  Runs.getState_bind (fun _ => (ifOk_skips he).bind ((ifOk_skips he).bind ((ifOk_skips he).bind ((ifOk_skips he).bind (ifOk_skips he)))))

theorem resume_delay_error {caller : PowerCaller} (h : Runs (powerOnSettled (Place.delay caller).frame caller) s e t) (he : e ≠ .ok) :
    resume (.delay caller) s = .next (t.setReturn .idle (caller.failing e)) := by
  cases caller with
  | host => exact h.conclude
  | sdInit d =>
    exact (Runs.conclude (r := .bool) (h.bind ((sdInitAfterPower_skips he d).bind (sdInitResult_gives e)))).trans (by rw [decide_eq_false he]; rfl)

/-- A `Delay` whose collaborator returns. -/
theorem delay_returns (caller : PowerCaller) (ms : Nat) : Runs (delay (hostIn cs) pt caller ms) (s.left i [[.delayRuns false]] p n c) ()
    (({ s with delayRuns := false } : State).left i [] p n c) := by
  have hstep : Runs ((hostIn cs).step pt) (s.left i [[.delayRuns false]] p n c) () (({ s with delayRuns := false } : State).left i [] p n c) := fun h =>
    ⟨h.goto (cs ++ [pt]), (step_env (moves := [.delayRuns false]) (rest := []) (by simp) (by simp [Move.fromEnv])).trans (by cases i <;> rfl)⟩
  refine Runs.getState_bind (fun _ => ?_)
  rw [State.setHostStep_sched, State.left_sched]
  exact hstep.bind (Runs.getState_bind (fun _ => Runs.of_neg (by simp) Runs.pure))

/-- Then a silent card ends `powerOn` at its CMD0. -/
theorem powerOnSettled_silent (hi : n.bound = some i) (caller : PowerCaller) :
    Runs (powerOnSettled (hostIn cs) caller) (s.left i [[.delayRuns false]] p n c) .timeout
      (({ s with delayRuns := false } : State).left i [] (p.commanded s.clearMask 0 0 0)
        { n with cardType := some .standardV1_1, capArg := some 0 } false) :=
  Runs.getState_bind (fun _ => (delay_returns caller _).bind ((sessionWrite_left _).bind ((sessionWrite_left _).bind
    ((silent_left (s := { s with delayRuns := false }) (by exact hi) (by decide) 0 (by decide)).thenOk_stop nofun))))

end

/-! ### The waits -/

section
variable {s t : State} {i : Sdmmc} {path : List Point} {rest : List (List Move)} {words : List Word} {flags : Word}

theorem width_of_bit {w0 w1 : Word} {mode : BusMode} (hm : mode ≠ .w8) (hw : (bswap w0).getLsbD (if mode = .w4 then 18 else 16) = true) :
    widthSupported ⟨bswap w0, bswap w1⟩ (widthOfMode mode) = true := by
  cases mode with
  | w8 => exact absurd rfl hm
  | w1 => exact hw
  | w4 => exact hw

theorem dataActive_of_dten {p : Periph} (h : p.dctrl.getLsbD 0 = true) : p.dataActive = true := by rw [Periph.dataActive, Periph.dten, h, Bool.true_or]

/-- A polled read that a data error of the card ends (43 R281, 44 R330). -/
theorem polledRead_fails (hi : s.session.bound = some i) {cs : List Point} {pts : ReadPoints} {limit : Nat} {at_ : List Word → Place}
    (hp : (s.periph i).sta &&& pollEnd = 0) (hdten : (s.periph i).dctrl.getLsbD 0 = true) (hf : flags &&& 0x2A ≠ 0)
    (hs : s.sched = [.dataFlags i flags] :: [] :: rest) : ∃ q : Periph, q.clkcr = (s.periph i).clkcr ∧
      Runs (polledRead (hostIn cs) pts limit at_ words) s (pollError flags, words) (s.left i rest q s.session s.appCmd) := by
  refine ⟨_, ?_, Runs.start i hs (polledRead_error hi hp hf (turns_dataFlags (dataActive_of_dten hdten) flags) rfl)⟩
  rfl

/-- The last flag of `SD_GetCardStatus`: the status is stored (44 R331). -/
theorem ssr_goesOn {out : Word} (hi : s.session.bound = some i) (hlen : words.length = 16) (hp : (s.periph i).sta &&& pollEnd = 0)
    (hdten : (s.periph i).dctrl.getLsbD 0 = true) (hidma : (s.periph i).idmactrl.getLsbD 0 = false)
    (hs : s.sched = [.dataFlags i dataend] :: [] :: rest) : ∃ t x, resume (.ssrLoop (.getCardStatus out) words) s = .next t ∧ t.hostStep = .idle ∧
      t.result = .err .ok ∧ t.sched = rest ∧ x.agrees (words.flatMap wordBytes) ∧ t.session = { s.session with sdStatus := some x } ∧ (out, x) ∈ t.structs := by
  have hrun := Runs.start i hs ((ssrFrom_reads (caller := .getCardStatus out) (got := words) (cs := [⟨.sdGetCardStatus, 1, 0⟩]) hlen
    (polledRead_full hi hp hidma hlen (turns_dataFlags (dataActive_of_dten hdten) dataend) rfl)).thenOk (storeSdStatus_left (cs := []) out))
  refine ⟨_, sdStatusOf (words.flatMap wordBytes), hrun.conclude, rfl, rfl, by simp, sdStatusOf_agrees ?_, by simp, by simp⟩
  rw [length_flatMap_wordBytes, hlen]

/-- The last flag of a `findSCR` of `wideBusOperationConfig`: the width is switched (43 R287 to R290). -/
theorem wideBus_goesOn {mode : BusMode} {caller : WideCaller} {rca : BitVec 16} {status w0 w1 : Word} (hi : s.session.bound = some i)
    (hrca : s.session.rca = some rca) (hst : decodeCardStatus status = .ok) (hw : widthSupported ⟨bswap w0, bswap w1⟩ (widthOfMode mode) = true)
    (hp : (s.periph i).sta &&& pollEnd = 0) (hdten : (s.periph i).dctrl.getLsbD 0 = true) (hidma : (s.periph i).idmactrl.getLsbD 0 = false)
    (hstale : (s.periph i).widStale = false)
    (hs : s.sched = [.dataFlags i dataend, .dataPhaseEnd i] :: [] :: (shortScript i 55 status ++ shortScript i 6 status ++ quiet 3 ++ rest)) :
    ∃ t, resume (.scrLoop (.wideBus mode caller) [w0, w1]) s = .next t ∧ t.hostStep = .idle ∧ t.sched = rest ∧ t.result = caller.succeeding ∧
      t.session = { s.session with scr := .written ⟨bswap w0, bswap w1⟩ } ∧ widbus (t.periph i).clkcr = widbusCode (widthOfMode mode) := by
  simp only [List.append_assoc] at hs
  have hscr := scrFrom_reads (s := s) (c := s.appCmd) (cs := Place.callers (.scrLoop (.wideBus mode caller) [w0, w1])) (caller := .wideBus mode caller)
    (polledRead_full (rest := shortScript i 55 status ++ (shortScript i 6 status ++ (quiet 3 ++ rest))) (got := [w0, w1]) hi hp hidma rfl
      (turns_dataEnded (dataActive_of_dten hdten) dataend) rfl)
  have hregs := widthAccepted_registers (((s.periph i).dataEnded dataend).write .icr staticFlags) s.clearMask status rca (widthOfMode mode)
  have hfresh : ((((s.periph i).dataEnded dataend).write .icr staticFlags).widthAccepted s.clearMask status rca (widthOfMode mode)).widStale = false :=
    (congrArg Periph.widStale hregs :).trans hstale
  have hafter := wideBusAfterScr_settles (s := s) (caller := caller) (n := { s.session with scr := .written ⟨bswap w0, bswap w1⟩ }) (c := s.appCmd)
    (cs := (Place.callers (.scrLoop (.wideBus mode caller) [w0, w1])).dropLast) hi rfl hw hrca hst (settle_now (rest := rest) hi hfresh)
  have hrun := Runs.start i hs (hscr.thenOk hafter)
  exact ⟨_, returnWide_ok hrun, rfl, by simp, rfl, by simp, by rw [State.setReturn_periph, State.left_periph]; exact Periph.switched_widbus _ _⟩

/-- A settle loop that reads the width it wrote (43 R290). -/
theorem settle_goesOn {caller : WideCaller} {code : BitVec 2} (hi : s.session.bound = some i) (hw : widbus (s.periph i).clkcr = code)
    (hs : s.sched = [] :: [] :: [.staleWidbus i false] :: rest) : resume (.settleLoop caller code) s =
      .next ((s.setPeriph i { s.periph i with widStale := false }).returned rest caller.succeeding) := by
  have hq : (s.periph i).switched code = s.periph i := Periph.switched_self hw
  have hrun := Runs.start i hs (settle_left (caller := caller) (code := code) (cs := Place.callers (.settleLoop caller code))
    (settleLoop_settled hi (turns_showing false) ((widbus_fresh rfl).trans (Periph.switched_widbus _ code))))
  rw [hq] at hrun
  exact (returnWide_ok hrun).trans (by cases i <;> rfl)

theorem settle_waits {caller : WideCaller} {code : BitVec 2} (hi : s.session.bound = some i) (hw : widbus (s.periph i).clkcr = code)
    (hstale : (s.periph i).widStale = true) (hprev : (s.periph i).widPrev ≠ code) (hs : s.sched = []) : resume (.settleLoop caller code) s =
      .next (s.setHostStep (.inside (.settleLoop caller code) (Place.path (.settleLoop caller code)))) := by
  refine (resume_settle_holds (Halts.start i hs (settle_holds (cs := Place.callers (.settleLoop caller code)) hi hw hstale hprev))).trans ?_
  rw [← hs, State.left_self]

/-- `powerOn` holds in its `Delay`, the power switched on (41 R204). -/
theorem powerOn_holds (hi : s.session.bound = some i) (hd : s.delayRuns = true) (hs : s.sched = []) :
    Halts (.hold (.delay .host)) (powerOn hostFrame .host) s (s.left i [] ((s.periph i).write .power ((s.periph i).power ||| 3))
      { s.session with powered := true } s.appCmd) := by
  have hset : Runs (regSet hostFrame .powerOn 1 .power 3) (s.left i [] (s.periph i) s.session s.appCmd) ()
      (s.left i [] ((s.periph i).write .power ((s.periph i).power ||| 3)) s.session s.appCmd) :=
    (regRead_left hi rfl (by decide)).bind (regWrite_left hi rfl _ _)
  exact Halts.start i hs (hset.bind_halts ((sessionWrite_left _).bind_halts (Halts.getState_bind (fun _ => Halts.bind (delay_holds hd _ _)))))

theorem delay_waits (i : Sdmmc) {caller : PowerCaller} (hd : s.delayRuns = true) (hs : s.sched = []) :
    resume (.delay caller) s = .next (s.setHostStep (.inside (.delay caller) (Place.path (.delay caller)))) := by
  refine (resume_delay_holds (Halts.start i hs (Halts.getState_bind
    (fun _ => Halts.bind (delay_holds (cs := Place.callers (.delay caller)) hd caller _))))).trans ?_
  rw [← hs, State.left_self]

end

/-- Settles O42: each wait goes round while its condition is not met, and ends with the move that meets it. -/
theorem unboundedWaitsHold : Obligations.UnboundedWaitsHold := by
  unfold Obligations.UnboundedWaitsHold
  intro s i path rest hi
  refine ⟨fun p words limit failing hs hp hcase => ⟨fun hsched hword => ?_, fun flags hdten hf hsched => ?_⟩,
    fun out words hlen hp hdten hidma hs hsched => ?_, fun mode caller rca status w0 w1 hm hrca hst hw hp hdten hidma hstale hs hsched => ?_,
    fun caller code hs hwid => ⟨fun hstale hprev hsched => ?_, fun hsched => ?_⟩, fun hd hsched => ?_,
    fun caller hs => ⟨fun hd hsched => ?_, fun hsched => ?_⟩⟩
  · have hrx : hasFlag (s.periph i).sta rxfifoe = true ∨ words.length = limit :=
      hword.imp_left (fun h => by rw [rxfifoe_eq, hasFlag_bit _ (by decide)]; exact h)
    obtain ⟨caller, rfl, rfl, -⟩ | ⟨caller, rfl, rfl, -⟩ := hcase
    · exact (step_hold hs nofun).trans (resume_scr_holds (Halts.bind (polledRead_waits (at_ := Place.scrLoop caller) hi hsched hp hrx)))
    · exact (step_hold hs nofun).trans (resume_ssr_holds (Halts.bind (polledRead_waits (at_ := Place.ssrLoop caller) hi hsched hp hrx)))
  · have herr := pollError_ne_ok hf
    rw [← pollError_eq hf]
    obtain ⟨caller, rfl, -, rfl⟩ | ⟨caller, rfl, -, rfl⟩ := hcase
    · obtain ⟨q, hclk, hrun⟩ := polledRead_fails (words := words) hi hp hdten hf hsched
      exact ⟨_, (step_hold hs nofun).trans (resume_scr_error (hrun.bind (Runs.of_neg herr Runs.pure)) herr), rfl, by simp, by simp, by simpa using hclk, rfl⟩
    · obtain ⟨q, hclk, hrun⟩ := polledRead_fails (words := words) hi hp hdten hf hsched
      exact ⟨_, (step_hold hs nofun).trans (resume_ssr_error (hrun.bind (Runs.of_neg herr Runs.pure)) herr), rfl, by simp, by simp, by simpa using hclk, rfl⟩
  · obtain ⟨t, x, hnext, h⟩ := ssr_goesOn hi hlen hp hdten hidma hsched
    exact ⟨t, x, (step_hold hs nofun).trans hnext, h⟩
  · obtain ⟨t, hnext, hidle, hsch, hres, hsess, hwid⟩ := wideBus_goesOn (caller := caller) hi hrca hst (width_of_bit hm hw) hp hdten hidma hstale hsched
    refine ⟨t, (step_hold hs nofun).trans hnext, hidle, hsch, hres, hsess, hwid.trans ?_⟩
    cases mode with
    | w8 => exact absurd rfl hm
    | w1 => rfl
    | w4 => rfl
  · exact (step_hold hs nofun).trans (settle_waits hi hwid hstale hprev hsched)
  · exact (step_hold hs nofun).trans (settle_goesOn hi hwid hsched)
  · refine (powerOn_holds hi hd hsched).finish_hold.trans ?_
    rw [← hsched]
    cases i <;> rfl
  · exact (step_hold hs nofun).trans (delay_waits i hd hsched)
  · have hrun := Runs.start i hsched (powerOnSettled_silent (cs := Place.callers (.delay caller)) hi caller)
    refine ⟨_, (step_hold hs nofun).trans (resume_delay_error hrun nofun), rfl, by cases i <;> rfl, rfl, by simp, ?_⟩
    rw [State.setReturn_periph, State.left_periph]
    exact (commandSent_commanded _ _ (by decide) _ _).registers

end Sys2Proof.Machine

/-! SUPPORT. The operand checks of the transfer calls, in their order (44 R302). -/

namespace Sys2Proof.Machine

/-! ### The DMA regions -/

theorem allInDmaRegion_iff (c : Params) (n : Nat) (a : Nat) : allInDmaRegion c a n = true ↔ ∀ k < n, inDmaRegion c (a + k) = true := by
  induction n generalizing a with
  | zero => simp [allInDmaRegion]
  | succ n ih =>
    rw [allInDmaRegion, Bool.and_eq_true, ih]
    refine ⟨fun ⟨h0, h⟩ k hk => ?_, fun h => ⟨h 0 (Nat.succ_pos n), fun k hk => ?_⟩⟩
    · cases k with
      | zero => exact h0
      | succ k => rw [← Nat.add_assoc, Nat.add_right_comm]; exact h k (Nat.lt_of_succ_lt_succ hk)
    · rw [Nat.add_assoc, Nat.add_comm 1]; exact h (k + 1) (Nat.succ_lt_succ hk)

/-! ### The checks -/

section
variable {β : Type} {E : Stop → State → Prop} {I : State → Prop} {c : Bool} {k : Unit → Act β} {Q : β → State → Prop}

theorem Spec.refuseIf_seq {r : Refusal} (h1 : c = true → ∀ s, I s → E (.refused r) s) (h2 : c = false → Spec E I (k ()) Q) :
    Spec E I (Machine.refuseIf c r >>= k) Q := by
  cases c with
  | true => exact Spec.bind (Spec.refuse (Q := fun _ _ => False) (h1 rfl)) (fun _ _ h => h.elim)
  | false => exact h2 rfl

theorem Spec.raiseIf_seq {f : Fault} (h1 : c = true → ∀ s, I s → E (.fault f) s) (h2 : c = false → Spec E I (k ()) Q) :
    Spec E I (Machine.raiseIf c f >>= k) Q := by
  cases c with
  | true => exact Spec.bind (Spec.raise (Q := fun _ _ => False) (h1 rfl)) (fun _ _ h => h.elim)
  | false => exact h2 rfl

end

/-- The first check of 44 R302 after the in-progress flags that stops a transfer call, none if every operand is admitted. -/
def operandStop (s : State) (address buffer blockSize numBlocks : Word) : Option Stop :=
  if blockSize ≠ 512 then some (.refused .blockSizeNot512)
  else if numBlocks.toNat = 0 ∨ 65535 < numBlocks.toNat then some (.refused .badBlockCount)
  else match s.session.cardType with
    | none => some (.fault .unwrittenSession)
    | some t =>
      if t ≠ .highCapacity ∧ 2 ^ 23 ≤ address.toNat then some (.refused .addressOverflow)
      else if buffer.toNat % 4 ≠ 0 then some (.fault .bufferMisaligned)
      else if allInDmaRegion s.cfg buffer.toNat (blockBytes * numBlocks.toNat) then none
      else some (.fault .bufferNotDmaCapable)

section
variable {s : State} {address buffer blockSize numBlocks : Word} {x : Stop} {t : CardType}

theorem operandStop_blockSize (h : blockSize ≠ 512) : operandStop s address buffer blockSize numBlocks = some (.refused .blockSizeNot512) := if_pos h

theorem operandStop_count (h : numBlocks.toNat = 0 ∨ 65535 < numBlocks.toNat) :
    operandStop s address buffer 512 numBlocks = some (.refused .badBlockCount) := by
  rw [operandStop, if_neg (by simp), if_pos h]

theorem operandStop_of_cardType (h : ¬(numBlocks.toNat = 0 ∨ 65535 < numBlocks.toNat)) (ht : s.session.cardType = some t) :
    operandStop s address buffer 512 numBlocks = if t ≠ .highCapacity ∧ 2 ^ 23 ≤ address.toNat then some (.refused .addressOverflow)
      else if buffer.toNat % 4 ≠ 0 then some (.fault .bufferMisaligned)
      else if allInDmaRegion s.cfg buffer.toNat (blockBytes * numBlocks.toNat) then none
      else some (.fault .bufferNotDmaCapable) := by
  rw [operandStop, if_neg (by simp), if_neg h, ht]

theorem operandStop_unwritten (h : ¬(numBlocks.toNat = 0 ∨ 65535 < numBlocks.toNat)) (ht : s.session.cardType = none) :
    operandStop s address buffer 512 numBlocks = some (.fault .unwrittenSession) := by
  rw [operandStop, if_neg (by simp), if_neg h, ht]

theorem operandStop_admitted (h : TransferAdmitted s t address buffer numBlocks) : operandStop s address buffer 512 numBlocks = none := by
  obtain ⟨ht, -, -, hlow, hhigh, haddr, halign, hregion⟩ := h
  rw [operandStop_of_cardType (by omega) ht, if_neg, if_neg (by omega)]
  · exact if_pos ((allInDmaRegion_iff _ _ _).2 hregion)
  · rintro ⟨hne, hle⟩
    exact haddr.elim hne (by omega)

/-- After the admission the checks stop a call as `operandStop` says, and only so. -/
theorem checkOperands_spec (hrx : s.xfer.rxCplt = false) (htx : s.xfer.txCplt = false) :
    Spec (fun e _ => operandStop s address buffer blockSize numBlocks = some e) (Undisturbed s)
      (checkOperands hostFrame address buffer blockSize numBlocks)
      (fun _ u => Undisturbed s u ∧ operandStop s address buffer blockSize numBlocks = none) := by
  refine (refuseOutstanding_admits hrx htx _ _).seq (fun _ => undisturbed_steps.passed (fun _ =>
    Spec.refuseIf_seq (fun h _ _ => operandStop_blockSize (of_decide_eq_true h)) (fun hsize => undisturbed_steps.passed (fun _ => ?_))))
  obtain rfl : blockSize = 512 := Decidable.not_not.1 (of_decide_eq_false hsize)
  refine Spec.refuseIf_seq (fun h _ _ => operandStop_count (of_decide_eq_true h)) (fun hcount => undisturbed_steps.passed (fun _ => ?_))
  have hcount := of_decide_eq_false hcount
  cases hcard : s.session.cardType with
  | none =>
    have hread : Spec (fun e _ => operandStop s address buffer 512 numBlocks = some e) (Undisturbed s) readCardType (fun _ _ => False) :=
      (readOr_unwritten (fun u hu => by rw [hu.session, hcard])).allowStop (fun _ _ (he : _ = _) => he ▸ operandStop_unwritten hcount hcard)
    exact Spec.bind hread (fun _ _ h => h.elim)
  | some t =>
    refine (readOr_undisturbed (fun u hu => by rw [hu.session, hcard])).known ?_
    rw [operandStop_of_cardType hcount hcard]
    refine Spec.refuseIf_seq (fun h _ _ => if_pos (of_decide_eq_true h)) (fun haddr => undisturbed_steps.passed (fun _ => ?_))
    rw [if_neg (of_decide_eq_false haddr)]
    refine Spec.raiseIf_seq (fun h _ _ => if_pos (of_decide_eq_true h)) (fun halign => undisturbed_steps.passed (fun _ => ?_))
    rw [if_neg (of_decide_eq_false halign)]
    refine Spec.getState_seq (fun u hu => ?_)
    rw [hu.cfg]
    cases allInDmaRegion s.cfg buffer.toNat (blockBytes * numBlocks.toNat) with
    | true => exact Spec.pure (fun _ h => ⟨h, rfl⟩)
    | false => exact Spec.raise (fun _ _ => rfl)

/-- A check that fails stops the call. -/
theorem checkOperands_stops (hrx : s.xfer.rxCplt = false) (htx : s.xfer.txCplt = false) (h : operandStop s address buffer blockSize numBlocks = some x) :
    StopsWith x (Undisturbed s) (checkOperands hostFrame address buffer blockSize numBlocks) :=
  ((checkOperands_spec hrx htx).allowStop (fun e _ he => Option.some.inj (he.symm.trans h))).post
    (fun _ _ hn => by simp [h] at hn)

/-- Admitted operands pass. -/
theorem checkOperands_admits {E : Stop → State → Prop} (hrx : s.xfer.rxCplt = false) (htx : s.xfer.txCplt = false)
    (h : operandStop s address buffer blockSize numBlocks = none) :
    Spec E (Undisturbed s) (checkOperands hostFrame address buffer blockSize numBlocks) (fun _ => Undisturbed s) :=
  ((checkOperands_spec hrx htx).allowStop (fun e _ he => by simp [h] at he)).post (fun _ _ hn => hn.1)

end

end Sys2Proof.Machine

/-! SUPPORT. A transfer call while another transfer is in progress, and the interrupt that ends it (44 R302, 60 R362, R370). -/

namespace Sys2Proof.Machine

theorem exec_transferCall (d : Dir) (address buffer blockSize numBlocks : Word) (s : State) :
    exec (transferCall d address buffer blockSize numBlocks) s =
      finish (transferCall d address buffer blockSize numBlocks) .err (xferBlocks hostFrame d address buffer blockSize numBlocks) s := by
  cases d <;> rfl

/-! ### The end of a single-block transfer, at quiet boundaries -/

section
variable {s : State} {i : Sdmmc} {op : Operation} {g : Agent} {f : Sdmmc → Act Unit} {cs : List Point}

theorem transferEnd_single (hi : s.session.bound = some i) (hs : s.sched = []) (hop : s.xfer.operation = some op) (hone : op.count = .single) :
    ∃ path, transferEnd (frameOf g f cs) s =
      .ok () (((s.setPeriph i (s.periph i).transferOff).setXfer (s.xfer.ended op.dir)).moved g path) := by
  obtain ⟨path, hstops⟩ := transferEnd_stops (g := g) (f := f) (cs := cs) hi (hs ▸ calm_nil 3)
  obtain ⟨path', hrecord⟩ := recordEnd_run (g := g) (f := f) (cs := cs)
    (s := (s.setPeriph i (s.periph i).transferOff).moved g (cs ++ [⟨.irqHandler, 6, 1⟩])) (op := op) (by simpa using hop) (by simpa [hs] using calm_nil 4)
  refine ⟨path', hstops.trans ?_⟩
  rw [stopAndRecord, run_bind_ok (readOperation_quiet (by simp [hs]) (by simpa using hop)), hone, onlyIf, if_neg (by decide), run_bind_ok (run_pure ..)]
  simpa [hs, setSched_self] using hrecord

/-- The whole handler for it. -/
theorem runHandler_single (hi : s.session.bound = some i) (hs : s.sched = []) (hop : s.xfer.operation = some op) (hone : op.count = .single)
    (hd : hasFlag (s.periph i).sta dataend = true) :
    runHandler irqHandler i s = .ok () (((s.setPeriph i ((s.periph i).sourcesOff.transferOff.write .icr staticFlags)).setXfer
      (s.xfer.ended op.dir)).setIrqStep .idle) := by
  obtain ⟨path, hend⟩ := transferEnd_single (g := .irq) (f := fun _ => pure ()) (cs := [])
    (s := (s.entered.atEvent i).moved .irq [⟨.irqHandler, 3, 0⟩]) (i := i) (op := op) (by simpa using hi) (by simp [hs]) (by simpa using hop) hone
  have hrun := irqHandler_run (s := s.entered) hi (by simpa [hs] using calm_nil 3)
    ((handleEvent_dataend (by simpa using hd) _).trans hend) (by simpa using hi) (by simp [hs])
  rw [runHandler_bound hi, run_bind_ok hrun, leaveIrq]
  simp [State.atEvent, State.entered, hs, setSched_self]

end

/-! ### The admission of a transfer call -/

section
variable {s : State} {i : Sdmmc} {d going : Dir} {address buffer blockSize numBlocks : Word} {rest : List (List Move)}

theorem xferRead_ok {α : Type} {b : Frame} {pt : Point} {u : State} (h : b.step pt s = .ok () u) (f : Transfer → α) :
    xferRead b pt f s = .ok (f u.xfer) u := run_bind_ok h

/-- The flags are read as clear, nothing steps after the first read. -/
theorem refuseOutstanding_cleared {u : State} {proc : Proc} {line : Nat} (h : hostFrame.step ⟨proc, line, 1⟩ s = .ok () u)
    (hrx : u.xfer.rxCplt = false) (htx : u.xfer.txCplt = false) (hs : u.sched = []) :
    refuseOutstanding hostFrame proc line s = .ok () (u.moved .host [⟨proc, line, 2⟩]) := by
  have htwo : xferRead hostFrame ⟨proc, line, 2⟩ (fun x => x.txCplt) u = .ok false (u.moved .host [⟨proc, line, 2⟩]) := by
    refine (xferRead_quiet (g := .host) (f := takeIrq irqHandler) (cs := []) (by simp [hs]) _).trans ?_
    simp [hs, htx, setSched_self]
  rw [refuseOutstanding, run_bind_ok (xferRead_ok h _), run_bind_ok htwo, hrx]
  rfl

/-- A pending interrupt of the bound controller ends the transfer before its flags are read. -/
theorem refuseOutstanding_ended (hi : s.session.bound = some i) (hop : s.xfer.operation = some ⟨.single, going⟩)
    (hrx : s.xfer.rxCplt = decide (going = .read)) (htx : s.xfer.txCplt = decide (going = .write)) (hd : hasFlag (s.periph i).sta dataend = true)
    (hready : irqReady s i = true) (hs : s.sched = [[.irq i]]) (proc : Proc) (line : Nat) :
    ∃ u, refuseOutstanding hostFrame proc line s = .ok () u := by
  have hhandler := runHandler_single (s := (s.setSched []).moved .host [⟨proc, line, 1⟩]) (i := i) (by simpa using hi) (by simp)
    (by simpa using hop) rfl (by simpa using hd)
  have hready' : irqReady ((s.setSched []).moved .host [⟨proc, line, 1⟩]) i = true := by
    rw [irqReady_iff] at hready ⊢
    simpa using hready
  have hstep := (hostStep_irq (pt := ⟨proc, line, 1⟩) hs).trans ((takeIrq_ready hready' irqHandler).trans hhandler)
  refine ⟨_, refuseOutstanding_cleared hstep ?_ ?_ (by simp)⟩
  · cases going <;> simp [Transfer.ended, clearInProgress, hrx]
  · cases going <;> simp [Transfer.ended, clearInProgress, htx]

/-- A call with another block size, once its admission has passed. -/
theorem xferBlocks_blockSize {u : State} (h : refuseOutstanding hostFrame .xferBlocks 1 s = .ok () u) (hsize : blockSize ≠ 512) :
    ∃ t, xferBlocks hostFrame d address buffer blockSize numBlocks s = .error (.refused .blockSizeNot512) t := by
  have hcheck : checkOperands hostFrame address buffer blockSize numBlocks s =
      .error (.refused .blockSizeNot512) (u.moved .host [⟨.xferBlocks, 2, 0⟩]) := by
    rw [checkOperands, run_bind_ok h, run_pass_bind, decide_eq_true hsize, refuseIf_true, run_bind_error (run_refuse _ _)]
    rfl
  exact ⟨_, run_bind_error hcheck⟩

/-- A call refused by the two flags, at quiet boundaries. -/
theorem xferBlocks_outstanding (h : (s.xfer.rxCplt || s.xfer.txCplt) = true) (hs : s.sched = [] :: [] :: rest) :
    ∃ t, xferBlocks hostFrame d address buffer blockSize numBlocks s = .error (.refused .transferOutstanding) t := by
  have hadmission := refuseOutstanding_quiet (g := .host) (f := takeIrq irqHandler) (cs := []) hs .xferBlocks 1
  rw [h, refuseIf_true, run_refuse] at hadmission
  exact ⟨_, run_bind_error (run_bind_error hadmission)⟩

/-- A check of the operands that fails stops the call. -/
theorem xferBlocks_stops {x : Stop} (hrx : s.xfer.rxCplt = false) (htx : s.xfer.txCplt = false)
    (h : operandStop s address buffer blockSize numBlocks = some x) :
    StopsWith x (Undisturbed s) (xferBlocks hostFrame d address buffer blockSize numBlocks) := (checkOperands_stops hrx htx h).bind _

end

theorem not_512 {blockSize : Word} (h : blockSize.toNat ≠ 512) : blockSize ≠ 512 := fun h' => h (by rw [h']; rfl)

/-- Settles O46: the flags are read first, then each check in its order. -/
theorem transferOperandChecks : Obligations.TransferOperandChecks := by
  unfold Obligations.TransferOperandChecks
  intro s d address buffer blockSize numBlocks
  simp only [exec_transferCall]
  refine ⟨fun hn hgo => ?_, fun i going n hsize hi hop hrx htx hd hmask hrouted hidle hs => ⟨?_, fun hn => ?_⟩, fun hn hrx htx => ?_⟩
  · exact (((refuseOutstanding_refuses hgo _ _).bind _).bind _).exec_refused (undisturbed_enter hn _)
  · rintro rfl
    have hpending : (s.periph i).sta &&& (s.periph i).mask ≠ 0 := fun h0 => by
      have hbit : ((s.periph i).sta &&& (s.periph i).mask).getLsbD 8 = false := by rw [h0]; rfl
      rw [BitVec.getLsbD_and, hd, hmask] at hbit
      exact Bool.noConfusion hbit
    obtain ⟨u, hu⟩ := refuseOutstanding_ended (s := s.enter (transferCall d address buffer blockSize numBlocks)) (proc := .xferBlocks) (line := 1) hi hop hrx htx
      ((hasFlag_dataend _).trans (by simpa using hd)) (irqReady_iff.2 ⟨by simpa using hpending, by simpa using hrouted, hidle⟩) (by simpa [quiet] using hs)
    obtain ⟨t, ht⟩ := xferBlocks_blockSize (d := d) (address := address) (buffer := buffer) (numBlocks := numBlocks) hu (not_512 hsize)
    exact conclude_refused ht
  · obtain ⟨n, rfl⟩ : ∃ m, n = m + 2 := ⟨n - 2, by omega⟩
    obtain ⟨t, ht⟩ := xferBlocks_outstanding (s := s.enter (transferCall d address buffer blockSize numBlocks)) (d := d) (address := address) (buffer := buffer)
      (blockSize := blockSize) (numBlocks := numBlocks) (rest := quiet n ++ [[.irq i]]) (by cases going <;> simp [hrx, htx])
      (by simp [hs, quiet, List.replicate_succ])
    exact conclude_refused ht
  · have hstops {x : Stop} (h : operandStop s address buffer blockSize numBlocks = some x) := xferBlocks_stops (d := d) hrx htx h
    refine ⟨fun hsize => (hstops (operandStop_blockSize (not_512 hsize))).exec_refused (undisturbed_enter hn _), ?_⟩
    rintro rfl
    refine ⟨fun hcount => (hstops (operandStop_count hcount)).exec_refused (undisturbed_enter hn _), fun hlow hhigh t ht => ?_⟩
    have hcard := operandStop_of_cardType (address := address) (buffer := buffer) (numBlocks := numBlocks) (by omega) ht
    refine ⟨fun hne hbig => (hstops (hcard.trans (if_pos ⟨hne, hbig⟩))).exec_refused (undisturbed_enter hn _), fun haddr => ?_⟩
    rw [if_neg (by rintro ⟨hne, hle⟩; exact haddr.elim hne (by omega))] at hcard
    refine ⟨fun halign => (hstops (hcard.trans (if_pos halign))).exec_fault (undisturbed_enter hn _), fun halign hregion => ?_⟩
    have hall : ¬allInDmaRegion s.cfg buffer.toNat (blockBytes * numBlocks.toNat) = true := fun hall => by
      obtain ⟨k, hk, hout⟩ := hregion
      exact absurd ((allInDmaRegion_iff _ _ _).1 hall k hk) (by simp [hout])
    exact (hstops (hcard.trans ((if_neg (by omega)).trans (if_neg hall)))).exec_fault (undisturbed_enter hn _)

end Sys2Proof.Machine

/-! SUPPORT. Register accesses and the controller they reach; what comes to one while none is bound (10 R38, R51, 20 R81). -/

namespace Sys2Proof.Machine

section
variable {s : State} {cs : List Point} {pt : Point} {c a : Word} {rt : Int}

/-! ### An access while no controller is bound -/

theorem boundRegister_unbound (hb : s.session.bound = none) (r : Reg) : boundRegister r s = none := by rw [boundRegister, hb]; rfl

theorem regRead_unbound (hb : s.session.bound = none) (r : Reg) : StopsWith (.fault .unbound) (Undisturbed s) (regRead (hostIn cs) pt r) := by
  refine (undisturbed_steps.step pt).seq (fun _ => Spec.getState_seq (fun t ht => ?_))
  simp only [boundRegister_unbound (ht.session ▸ hb) r]
  exact Spec.raise (fun _ _ => rfl)

theorem regWrite_unbound (hb : s.session.bound = none) (r : Reg) (v : Word) : StopsWith (.fault .unbound) (Undisturbed s) (regWrite (hostIn cs) pt r v) := by
  refine (undisturbed_steps.step pt).seq (fun _ => Spec.getState_seq (fun t ht => ?_))
  simp only [boundRegister_unbound (ht.session ▸ hb) r]
  exact Spec.raise (fun _ _ => rfl)

/-! ### What comes to an access -/

theorem transmitCommand_unbound (hb : s.session.bound = none) (hadm : responseTypeAdmitted rt = true) :
    StopsWith (.fault .unbound) (Undisturbed s) (transmitCommand (hostIn cs) c a rt) := by
  rw [transmitCommand, if_pos hadm]
  exact undisturbed_steps.passed (fun _ => Spec.getState_seq (fun _ _ => (regWrite_unbound hb _ _).bind _))

theorem sdAbort_unbound (hb : s.session.bound = none) : StopsWith (.fault .unbound) (Undisturbed s) (sdAbort (hostIn cs)) :=
  ((regRead_unbound hb _).bind _).bind _

theorem findSCR_unbound (hb : s.session.bound = none) (caller : ScrCaller) : StopsWith (.fault .unbound) (Undisturbed s) (findSCR (hostIn cs) caller) :=
  (transmitCommand_unbound hb (by decide)).thenOk _

theorem sendSDStatus_unbound (hb : s.session.bound = none) (caller : SsrCaller) :
    StopsWith (.fault .unbound) (Undisturbed s) (sendSDStatus (hostIn cs) caller) := (transmitCommand_unbound hb (by decide)).thenOk _

theorem slowClock_unbound (hb : s.session.bound = none) : StopsWith (.fault .unbound) (Undisturbed s) (slowClock (hostIn cs)) :=
  Spec.getState_seq (fun _ _ => (regWrite_unbound hb _ _).bind _)

theorem readRcaArg_undisturbed {E : Stop → State → Prop} {rca : BitVec 16} (h : s.session.rca = some rca) :
    Spec E (Undisturbed s) readRcaArg (fun b t => Undisturbed s t ∧ b = rcaArgument rca) :=
  (readOr_undisturbed (fun u hu => by rw [hu.session, h])).known (Spec.pure (fun _ h => ⟨h, rfl⟩))

/-- The lock bit is the first register read of the wide-bus negotiation. -/
theorem wideBus_unbound (hb : s.session.bound = none) {t0 : CardType} {mode : BusMode} (ht : s.session.cardType = some t0)
    (hf : t0 = .standardV1_1 ∨ t0 = .standardV2_0 ∨ t0 = .highCapacity) (hm : mode ≠ .w8) (caller : WideCaller) :
    StopsWith (.fault .unbound) (Undisturbed s) (wideBusOperationConfig (hostIn cs) caller mode) := by
  refine (readOr_undisturbed (fun u hu => by rw [hu.session, ht])).known (undisturbed_steps.passed (fun _ => ?_))
  rw [if_pos hf]
  refine undisturbed_steps.passed (fun _ => ?_)
  rw [if_neg hm]
  exact (regRead_unbound hb _).bind _

theorem sdGetStatus_unbound (hb : s.session.bound = none) {rca : BitVec 16} (hrca : s.session.rca = some rca) :
    StopsWith (.fault .unbound) (Undisturbed s) (sdGetStatus (hostIn cs)) :=
  (readRcaArg_undisturbed hrca).known ((transmitCommand_unbound hb (by decide)).thenOk _)

theorem xferBlocks_unbound (hb : s.session.bound = none) {d : Dir} {t0 : CardType} {address buffer n : Word} (h : TransferAdmitted s t0 address buffer n) :
    StopsWith (.fault .unbound) (Undisturbed s) (xferBlocks hostFrame d address buffer 512 n) := by
  refine (checkOperands_admits h.2.1 h.2.2.1 (operandStop_admitted h)).seq (fun _ => ?_)
  refine (readOr_undisturbed (fun u hu => by rw [hu.session, h.1])).known (undisturbed_steps.passed (fun _ => ?_))
  exact (transmitCommand_unbound hb (by decide)).thenOk _

theorem surfaceError_unbound (hb : s.session.bound = none) (proc : Proc) (line : Nat) (d : Dir) :
    StopsWith (.fault .unbound) (Undisturbed s) (surfaceError (hostIn cs) proc line d) :=
  (xferRead_undisturbed _).known ((sdAbort_unbound hb).bind _)

/-- A check call that finds a recorded error runs Abort. -/
theorem checkTransfer_surfaces {x : Stop} {d : Dir} (herr : s.xfer.error ≠ .ok) (hform : s.cfg.checkForm = .errorFirst ∨ inProgress d s.xfer = true)
    (h : ∀ proc line, StopsWith x (Undisturbed s) (surfaceError hostFrame proc line d)) : StopsWith x (Undisturbed s) (checkTransfer hostFrame d) := by
  refine Spec.getState_seq (fun u hu => ?_)
  rw [hu.cfg]
  cases hcase : s.cfg.checkForm with
  | nested =>
    rw [hcase] at hform
    refine (xferRead_undisturbed _).known ?_
    rw [if_pos (hform.resolve_left (by decide))]
    refine (xferRead_undisturbed _).known ?_
    rw [if_neg herr]
    exact h _ _
  | errorFirst =>
    refine (xferRead_undisturbed _).known ?_
    rw [if_neg herr]
    exact h _ _

/-! ### SD_Init and the pin -/

/-- The pin is as in `s`, and no move of the next `k` boundaries changes it. -/
def PinKept (s : State) (k : Nat) (t : State) : Prop :=
  Undisturbed s t ∧ t.pin = s.pin ∧ ∀ slot ∈ t.sched.take k, ∀ m ∈ slot, ∀ level, m ≠ .pin level

theorem dmaStore_pin (i : Sdmmc) (bytes : List Byte) (t : State) : (dmaStore i bytes t).pin = t.pin := by
  induction bytes generalizing t with
  | nil => rfl
  | cons b bytes ih =>
    rw [dmaStore]
    split
    · rw [ih]
      simp
    · rfl

theorem dmaSend_pin (i : Sdmmc) (n : Nat) (t : State) : (dmaSend i n t).pin = t.pin := by
  induction n generalizing t with
  | zero => rfl
  | succ n ih =>
    have hbyte (a : Nat) : (byteForCard t a).2.pin = t.pin := by
      rw [byteForCard]
      split <;> rfl
    rw [dmaSend]
    split
    · rw [ih]
      simp [hbyte]
    · rfl

/-- No other move changes the pin. -/
theorem applyEnv_pin {m : Move} (h : ∀ level, m ≠ .pin level) (t : State) : (applyEnv m t).pin = t.pin := by
  cases m with
  | pin level => exact absurd rfl (h level)
  | dmaStore i bytes =>
    rw [applyEnv]
    split
    · exact dmaStore_pin i bytes t
    · rfl
  | dmaSend i n =>
    rw [applyEnv]
    split
    · exact dmaSend_pin i n t
    · rfl
  | cmdFlags | dataFlags | idmaError | respond | fifoPush | dataRestart | fifoSend =>
    rw [applyEnv]
    split
    · simp
    · rfl
  | cmdEnd | dataPhaseEnd | dtenClear | dynFlags | staleWidbus | reservedBits => simp [applyEnv]
  | delayRuns | irq => rfl

theorem pinKept_step {E : Stop → State → Prop} {k : Nat} : Spec E (PinKept s (k + 1)) ((hostIn cs).step pt) (fun _ => PinKept s k) := by
  rintro t ⟨ht, hpin, hslots⟩
  cases hs : t.sched with
  | nil =>
    rw [step_quiet (by rw [hs]; rfl)]
    exact ⟨⟨ht.1, fun slot hslot => by simp [hs] at hslot⟩, hpin, by simp [hs]⟩
  | cons moves rest =>
    rw [step_env hs (ht.2 moves (by simp [hs]))]
    rw [hs, List.take_succ_cons] at hslots
    have hrest : Undisturbed s (t.setSched rest) := ⟨ht.1, fun slot hslot => ht.2 slot (by rw [hs]; exact List.mem_cons_of_mem _ hslot)⟩
    refine ⟨envMoves_undisturbed hrest, ?_, ?_⟩
    · exact envMoves_onlyMoves (M := fun m => ∀ level, m ≠ .pin level) (J := fun u => u.pin = s.pin) (fun u m hm hu => (applyEnv_pin hm u).trans hu)
        (hslots moves (List.mem_cons_self ..)) hpin
    · show ∀ slot ∈ (envMoves moves (t.setSched rest)).sched.take k, _
      rw [envMoves_sched]
      exact fun slot hslot => hslots slot (List.mem_cons_of_mem _ hslot)

theorem xferRead_pinKept {E : Stop → State → Prop} {k : Nat} {α : Type} (f : Transfer → α) :
    Spec E (PinKept s (k + 1)) (xferRead (hostIn cs) pt f) (fun a t => PinKept s k t ∧ a = f s.xfer) :=
  pinKept_step.bind (fun _ _ ht => ⟨ht, congrArg f ht.1.xfer⟩)

theorem detectPin_pinKept {E : Stop → State → Prop} : Spec E (PinKept s 1) (detectPin (hostIn cs) pt) (fun level t => Undisturbed s t ∧ level = s.pin) :=
  pinKept_step.bind (fun _ _ ht => ⟨ht.1, ht.2.1⟩)

/-- The card is present: the pin is not read, or is at its level (41 R201). -/
theorem sdIsDetected_unread {E : Stop → State → Prop} (h : s.cfg.detect = false) :
    Spec E (Undisturbed s) (sdIsDetected (hostIn cs)) (fun b t => Undisturbed s t ∧ b = true) := by
  refine Spec.getState_seq (fun u hu => ?_)
  rw [hu.cfg, h]
  exact undisturbed_steps.passed (fun _ => Spec.pure (fun _ ht => ⟨ht, rfl⟩))

theorem sdIsDetected_level {E : Stop → State → Prop} (hd : s.cfg.detect = true) (h : s.pin = s.cfg.detectLevel) :
    Spec E (PinKept s 1) (sdIsDetected (hostIn cs)) (fun b t => Undisturbed s t ∧ b = true) := by
  refine Spec.getState_seq (fun u hu => ?_)
  rw [hu.1.cfg, if_pos hd]
  exact detectPin_pinKept.known (Spec.pure (fun _ ht => ⟨ht, decide_eq_true h⟩))

theorem refuseOutstanding_pinKept {E : Stop → State → Prop} (hrx : s.xfer.rxCplt = false) (htx : s.xfer.txCplt = false) (proc : Proc) (line : Nat) :
    Spec E (PinKept s 3) (refuseOutstanding hostFrame proc line) (fun _ => PinKept s 1) := by
  refine (xferRead_pinKept _).known ((xferRead_pinKept _).known ?_)
  rw [hrx, htx]
  exact Spec.pure (fun _ h => h)

/-- The first stage of `SD_Init` comes to a register. -/
theorem sdInit_stages_unbound {I J : State → Prop} (hb : s.session.bound = none) {d : Word} (hd : d.toNat < 1024)
    (hadmit : Spec (Only (.fault .unbound)) I (refuseOutstanding hostFrame .sdInit 0) (fun _ => J))
    (hpresent : Spec (Only (.fault .unbound)) J (sdIsDetected (hostFrame.call ⟨.sdInit, 1, 0⟩)) (fun b t => Undisturbed s t ∧ b = true)) :
    StopsWith (.fault .unbound) I (sdInit hostFrame d) := by
  have hrange : (!clockDividerInRange d) = false := by simp [clockDividerInRange, hd]
  refine Spec.refuseIf_seq (fun h => by rw [hrange] at h; exact Bool.noConfusion h) (fun _ => ?_)
  exact hadmit.bind (fun _ => hpresent.known (((slowClock_unbound hb).bind _).bind _))

theorem sdInit_unbound (hb : s.session.bound = none) (hn : NoInterrupt s) {d : Word} (hd : d.toNat < 1024) (hrx : s.xfer.rxCplt = false)
    (htx : s.xfer.txCplt = false)
    (hpin : s.cfg.detect = true → s.pin = s.cfg.detectLevel ∧ ∀ slot ∈ s.sched.take 3, ∀ m ∈ slot, ∀ level, m ≠ .pin level) :
    exec (.sdInit d) s = .fault .unbound := by
  cases hdet : s.cfg.detect with
  | false => exact (sdInit_stages_unbound hb hd (refuseOutstanding_admits hrx htx _ _) (sdIsDetected_unread hdet)).exec_fault (undisturbed_enter hn _)
  | true =>
    obtain ⟨hlevel, hslots⟩ := hpin hdet
    exact (sdInit_stages_unbound hb hd (refuseOutstanding_pinKept hrx htx _ _) (sdIsDetected_level hdet hlevel)).exec_fault
      ⟨undisturbed_enter hn _, rfl, hslots⟩

theorem classify_unbound (hb : s.session.bound = none) (hc : c.toNat < 64) : StopsWith (.fault .unbound) (Undisturbed s) (do
    refuseIf (!commandInRange c) .badCall
    classify hostFrame c rt) := by
  have hrange : (!commandInRange c) = false := by simp [commandInRange, hc]
  refine Spec.refuseIf_seq (fun h => by rw [hrange] at h; exact Bool.noConfusion h) (fun _ => ?_)
  exact (regRead_unbound hb _).bind _

/-- The operations that begin with an access. -/
theorem first_unbound (hb : s.session.bound = none) (hn : NoInterrupt s) {c rt out : Word} (hc : c.toNat < 64) {x : Instr}
    (hx : x ∈ [.powerOn, .initializeCard, .findSCR, .sendSDStatus, .sdGetCardStatus out, .sdAbort, .classify c rt]) : exec x s = .fault .unbound := by
  have hu := undisturbed_enter hn x
  simp only [List.mem_cons, List.not_mem_nil, or_false] at hx
  obtain rfl | rfl | rfl | rfl | rfl | rfl | rfl := hx
  · exact (((regRead_unbound hb _).bind _).bind _).exec_fault hu
  · exact ((regRead_unbound hb _).bind _).exec_fault hu
  · exact (findSCR_unbound hb _).exec_fault hu
  · exact (sendSDStatus_unbound hb _).exec_fault hu
  · exact ((sendSDStatus_unbound hb _).thenOk _).exec_fault hu
  · exact (sdAbort_unbound hb).exec_fault hu
  · exact (classify_unbound hb hc).exec_fault hu

end

/-- Settles O23: every access begins with the look for the bound controller. -/
theorem unboundAccessFaults : Obligations.UnboundAccessFaults := by
  unfold Obligations.UnboundAccessFaults
  refine ⟨?_, fun s pt r v hb hn => ⟨(regRead_unbound hb r).run ⟨⟨rfl, rfl, rfl⟩, hn⟩, (regWrite_unbound hb r v).run ⟨⟨rfl, rfl, rfl⟩, hn⟩⟩,
    fun s i pt r v hi hs => ⟨?_, fun hr => ?_⟩, fun s x c a rt hb hn hrow => ?_, fun s x c rt out d hb hn hc hcase => ?_⟩
  · have htable : ∀ x ∈ [(Reg.power, (0x00 : Word)), (.clkcr, 0x04), (.argr, 0x08), (.cmdr, 0x0C), (.respcmdr, 0x10), (.resp1, 0x14), (.resp2, 0x18),
        (.resp3, 0x1C), (.resp4, 0x20), (.dtimer, 0x24), (.dlen, 0x28), (.dctrl, 0x2C), (.dcntr, 0x30), (.sta, 0x34), (.icr, 0x38), (.mask, 0x3C),
        (.acktimer, 0x40), (.idmactrl, 0x50), (.idmabsize, 0x54), (.idmabase0, 0x58), (.idmabase1, 0x5C), (.fifo, 0x80)], x.1.offset = x.2 := by decide
    intro i r offset hmem
    refine ⟨?_, registerAt_registerAddress i r⟩
    rw [registerAddress, htable _ hmem]
    cases i <;> rfl
  · refine (regWrite_quiet (by rw [hs]; rfl) hi r v).trans ?_
    rw [hs, List.tail_nil, setSched_self hs]
    rfl
  · refine (regRead_quiet (by rw [hs]; rfl) hi hr).trans ?_
    rw [hs, List.tail_nil, setSched_self hs]
    rfl
  · rw [exec_of_commandRow hrow]
    exact (transmitCommand_unbound hb (commandRow_issued hrow).2).exec_fault (undisturbed_enter hn _)
  · have hu := undisturbed_enter hn x
    obtain hx | ⟨rfl, hd, hrx, htx, hpin⟩ | ⟨t0, mode, rfl, hm, ht, hf⟩ | ⟨rca, rfl, hrca⟩ | ⟨dir, t0, address, buffer, n, rfl, hadm⟩ |
      ⟨dir, rfl, herr, hform⟩ := hcase
    · exact first_unbound hb hn hc hx
    · exact sdInit_unbound hb hn hd hrx htx hpin
    · exact (wideBus_unbound hb ht hf hm .host).exec_fault hu
    · exact (sdGetStatus_unbound hb hrca).exec_fault hu
    · rw [exec_transferCall]
      exact (xferBlocks_unbound hb hadm).exec_fault hu
    · rw [exec_checkCall]
      exact (checkTransfer_surfaces herr hform (fun _ _ => surfaceError_unbound hb _ _ _)).exec_fault hu

end Sys2Proof.Machine

/-! SUPPORT. A transfer call over its script: admission, CMD16, the cache hook, arming (44 R302 to R306). -/

namespace Sys2Proof.Machine

/-! ### Steps that change more than the bound controller -/

section
variable {s t : State} {i : Sdmmc} {x rest : List (List Move)} {p : Periph} {n : Session} {c : Bool} {cs : List Point} {pt : Point} {α : Type}

theorem xferRead_left (hq : x.headD [] = []) (f : Transfer → α) : Runs (xferRead (hostIn cs) pt f) (s.left i x p n c) (f s.xfer) (s.left i x.tail p n c) :=
  fun h => ⟨h.goto (cs ++ [pt]), (xferRead_quiet (by simpa using hq) f).trans (by cases i <;> rfl)⟩

theorem xferWrite_left (hq : x.headD [] = []) (f : Transfer → Transfer) :
    Runs (xferWrite (hostIn cs) pt f) (s.left i x p n c) () ((s.setXfer (f s.xfer)).left i x.tail p n c) :=
  fun h => ⟨h.goto (cs ++ [pt]), (xferWrite_quiet (by simpa using hq) f).trans (by cases i <;> rfl)⟩

/-- The buffer `w` is in use from here (20 R90, R91). -/
def State.opened (s : State) (w : Buffer) : State :=
  { s with windows := w :: s.windows, stale := if w.dir = .read && !s.cfg.cacheHooks then w :: s.stale else s.stale }

theorem openWindow_left (w : Buffer) : Runs (openWindow w) (s.left i x p n c) () ((s.opened w).left i x p n c) := Runs.update (fun _ => by cases i <;> rfl)

/-! ### The admission and the operand checks -/

theorem Runs.refuseIf_bind {β : Type} {b : Bool} {r : Refusal} {k : Unit → Act β} {a : β} (hb : b = false) (h : Runs (k ()) s a t) :
    Runs (refuseIf b r >>= k) s a t := by
  subst hb
  exact h

theorem Runs.raiseIf_bind {β : Type} {b : Bool} {f : Fault} {k : Unit → Act β} {a : β} (hb : b = false) (h : Runs (k ()) s a t) :
    Runs (raiseIf b f >>= k) s a t := by
  subst hb
  exact h

theorem refuseOutstanding_left (hrx : s.xfer.rxCplt = false) (htx : s.xfer.txCplt = false) (hq : x.headD [] = []) (hq' : x.tail.headD [] = []) (proc : Proc)
    (line : Nat) : Runs (refuseOutstanding (hostIn cs) proc line) (s.left i x p n c) () (s.left i x.tail.tail p n c) := by
  refine (xferRead_left hq _).bind ((xferRead_left hq' _).bind ?_)
  rw [hrx, htx]
  exact Runs.pure

variable {t0 : CardType} {address buffer numBlocks : Word}

theorem checkOperands_left (h : TransferAdmitted s t0 address buffer numBlocks) (hq : x.headD [] = []) (hq' : x.tail.headD [] = []) :
    Runs (checkOperands hostFrame address buffer 512 numBlocks) (s.left i x p s.session c) () (s.left i x.tail.tail p s.session c) := by
  obtain ⟨ht, hrx, htx, hlow, hhigh, haddr, halign, hregion⟩ := h
  refine (refuseOutstanding_left hrx htx hq hq' _ _).bind (Runs.passed (Runs.refuseIf_bind ?_ (Runs.passed (Runs.refuseIf_bind ?_
    (Runs.passed ((Runs.readCardType (by simpa using ht)).bind (Runs.refuseIf_bind ?_ (Runs.passed (Runs.raiseIf_bind ?_ (Runs.passed
    (Runs.getState_bind (fun _ => ?_))))))))))))
  · exact decide_eq_false (not_not_intro rfl)
  · exact decide_eq_false (by omega)
  · exact decide_eq_false (fun ⟨hne, hle⟩ => haddr.elim hne (by omega))
  · exact decide_eq_false (by omega)
  · rw [State.setHostStep_cfg, State.left_cfg,
      show allInDmaRegion s.cfg buffer.toNat (blockBytes * numBlocks.toNat) = true from (allInDmaRegion_iff _ _ _).2 hregion]
    exact Runs.pure

/-! ### The cache hook (44 R304) -/

/-- The marks after the cache hook of a transfer of direction `d` (20 R90). -/
def State.hooked (s : State) (d : Dir) (a len : Nat) : State :=
  if s.cfg.cacheHooks then
    match d with
    | .read => { s with stale := s.stale.flatMap (fun w => w.minus a len) }
    | .write => { s with tainted := s.tainted.filter (fun x => !(decide (a ≤ x) && decide (x < a + len))) }
  else s

theorem State.hooked_eq (s : State) (d : Dir) (a len : Nat) : s.hooked d a len = { s with stale := (s.hooked d a len).stale, tainted := (s.hooked d a len).tainted } := by
  unfold State.hooked
  split
  · cases d <;> rfl
  · rfl

theorem cacheHook_left (d : Dir) (a len : Nat) : Runs (cacheHook (hostIn cs) d a len)
    (s.left i (quiet (if s.cfg.cacheHooks then 1 else 0) ++ rest) p n c) () ((s.hooked d a len).left i rest p n c) := by
  refine Runs.getState_bind (fun _ => ?_)
  rw [State.setHostStep_cfg, State.left_cfg]
  unfold State.hooked
  cases s.cfg.cacheHooks with
  | true =>
    cases d with
    | read => exact (step_left rfl).bind (Runs.update (fun _ => by cases i <;> rfl))
    | write => exact (step_left rfl).bind (Runs.update (fun _ => by cases i <;> rfl))
  | false => exact Runs.pass

/-! ### Arming (44 R305) -/

/-- The Transfer State of a transfer that is armed. -/
def Transfer.armed (x : Transfer) (d : Dir) (numBlocks : Word) : Transfer :=
  { setInProgress d { x with complete := false, error := .ok } with operation := some ⟨countOf numBlocks, d⟩ }

/-- The state but for the bound controller once a transfer is armed. -/
def State.armed (s : State) (d : Dir) (buffer numBlocks : Word) : State :=
  (s.opened ⟨d, buffer.toNat, blockBytes * numBlocks.toNat⟩).setXfer (s.xfer.armed d numBlocks)

/-- The controller once a transfer is armed. -/
def Periph.dmaArmed (p : Periph) (timeout : Word) (d : Dir) (buffer numBlocks : Word) : Periph :=
  let q := (((p.write .dctrl 0).write .dtimer timeout).write .dlen (BitVec.ofNat 32 (blockBytes * numBlocks.toNat))).write .dctrl (dmaControl d)
  let q := ((q.write .mask (q.mask ||| dirIrqs d)).write .idmabase0 buffer).write .idmactrl 1
  q.write .cmdr (q.cmdr ||| cmdtrans)

theorem armTransfer_left (hi : n.bound = some i) (d : Dir) (buffer numBlocks : Word) : Runs (armTransfer (hostIn cs) d buffer numBlocks)
    (s.left i (quiet 14 ++ rest) p n c) () ((s.armed d buffer numBlocks).left i rest (p.dmaArmed s.cfg.dtimer d buffer numBlocks) n c) := by
  refine Runs.getState_bind (fun _ => ?_)
  rw [State.setHostStep_cfg, State.left_cfg]
  exact (regWrite_left hi rfl _ _).bind ((xferWrite_left rfl _).bind ((xferWrite_left rfl _).bind (Runs.passed ((xferWrite_left rfl _).bind
    ((openWindow_left _).bind ((xferWrite_left rfl _).bind ((regWrite_left hi rfl _ _).bind ((regWrite_left hi rfl _ _).bind
    ((regWrite_left hi rfl _ _).bind ((regSet_left hi (by decide) _ _ _).bind ((regWrite_left hi rfl _ _).bind ((regWrite_left hi rfl _ _).bind
    (regSet_left hi (by decide) _ _ _)))))))))))))

/-! ### The registers of an armed transfer (44 R305, R309) -/

/-- What a command leaves of the controller but for the words it writes. -/
def Reissued (p q : Periph) : Prop := CommandRegistersOnly p q ∧ q.cmdr.getLsbD 6 = p.cmdr.getLsbD 6

theorem Reissued.refl (p : Periph) : Reissued p p := ⟨.refl p, rfl⟩

theorem Reissued.trans {q r : Periph} (h : Reissued p q) (h' : Reissued q r) : Reissued p r := ⟨h.1.trans h'.1, h'.2.trans h.2⟩

theorem CommandSent.reissued {q : Periph} {command a : Word} (h : CommandSent command a p q) : Reissued p q := ⟨h.registers, h.cmdtrans⟩

/-- `q` holds the registers of an armed transfer, the others as in `p`. -/
def ArmedFrom (p : Periph) (timeout : Word) (d : Dir) (buffer numBlocks : Word) (q : Periph) : Prop :=
  CommandRegistersOnly { p with
    dtimer := timeout, dlen := BitVec.ofNat 32 (blockBytes * numBlocks.toNat), dctrl := dmaControl d, mask := p.mask ||| dirIrqs d, idmabase0 := buffer
    idmactrl := 1, dmaCount := 0, exhausted := q.exhausted } q ∧ q.cmdr.getLsbD 6 = true

theorem write_dctrl_disabled {v : Word} (h : v.getLsbD 0 = false) (p : Periph) : p.write .dctrl v = { p with dctrl := v } := by
  rw [Periph.write, h, if_neg (by decide)]

theorem armedFrom_dmaArmed (p : Periph) (timeout : Word) (d : Dir) (buffer numBlocks : Word) :
    ArmedFrom p timeout d buffer numBlocks (p.dmaArmed timeout d buffer numBlocks) := by
  have hbit : cmdtrans.getLsbD 6 = true := by decide
  refine ⟨?_, by rw [Periph.dmaArmed, Periph.write, BitVec.getLsbD_or, hbit, Bool.or_true]⟩
  have hidma (q : Periph) : ∃ sta ex, q.write .idmactrl 1 = { q with idmactrl := 1, dmaCount := 0, exhausted := ex, sta := sta } := by
    obtain ⟨sta, h⟩ := Periph.keepRx_eq { q with idmactrl := 1, dmaCount := 0, exhausted := q.exhausted && !(1 : Word).getLsbD 0 }
    exact ⟨sta, _, h⟩
  have hctrl : (dmaControl d).getLsbD 0 = false := by cases d <;> decide
  rw [Periph.dmaArmed, write_dctrl_disabled (v := 0) (by decide), write_dctrl_disabled hctrl]
  obtain ⟨sta, ex, h⟩ := hidma _
  rw [h]
  rfl

theorem ArmedFrom.reissued {timeout : Word} {d : Dir} {q r : Periph} (h : ArmedFrom p timeout d buffer numBlocks q) (hr : Reissued q r) :
    ArmedFrom p timeout d buffer numBlocks r := by
  have hex : r.exhausted = q.exhausted := (congrArg Periph.exhausted hr.1 :)
  exact ⟨hex ▸ h.1.trans hr.1, hr.2.trans h.2⟩

theorem ArmedFrom.of_reissued {timeout : Word} {d : Dir} {q r : Periph} (h : ArmedFrom q timeout d buffer numBlocks r) (hr : Reissued p q) :
    ArmedFrom p timeout d buffer numBlocks r := by
  refine ⟨CommandRegistersOnly.trans ?_ h.1, h.2⟩
  exact (congrArg (fun x : Periph => { x with
    dtimer := timeout, dlen := BitVec.ofNat 32 (blockBytes * numBlocks.toNat), dctrl := dmaControl d, mask := x.mask ||| dirIrqs d, idmabase0 := buffer
    idmactrl := 1, dmaCount := 0, exhausted := r.exhausted }) hr.1 :)

theorem ArmedFrom.exhaust {timeout : Word} {d : Dir} {q : Periph} (h : ArmedFrom p timeout d buffer numBlocks q) :
    ArmedFrom p timeout d buffer numBlocks { q with exhausted := true } :=
  ⟨(congrArg (fun x : Periph => { x with exhausted := true }) h.1 :), h.2⟩

theorem ArmedFrom.armed {d : Dir} {q : Periph} (h : ArmedFrom (s.periph i) s.cfg.dtimer d buffer numBlocks q) : Armed s i d buffer numBlocks q := by
  cases d <;> exact h

end

end Sys2Proof.Machine

/-! SUPPORT. The transfer command and its retries over a known schedule (44 R307 to R309). -/

namespace Sys2Proof.Machine

/-- From `u` an attempt of the transfer command and at most `k` retries give `e` and leave `t`. -/
def Attempts (cs : List Point) (command daddr : Word) (k : Nat) (u : State) (e : Err) (t : State) : Prop :=
  ∀ cs', ∃ e1 v, Runs (transmitCommand (hostIn cs') command daddr 1) u e1 v ∧ Runs (retryTransfer (hostIn cs) command daddr k e1) v e t

/-- The controller after an attempt that failed its CRC check and the probe that follows it (44 R308). -/
def Periph.reattempted (clear command daddr status : Word) (rca : BitVec 16) (p : Periph) : Periph :=
  (p.answeredShort clear command daddr 1 0 0).answeredShort clear 55 (rcaArgument rca) 1 55 status

/-- The controller after `m` such attempts. -/
def Periph.reattempts (clear command daddr status : Word) (rca : BitVec 16) : Nat → Periph → Periph
  | 0, p => p
  | m + 1, p => reattempts clear command daddr status rca m (p.reattempted clear command daddr status rca)

section
variable {s t u : State} {i : Sdmmc} {d : Dir} {x rest : List (List Move)} {p q : Periph} {n : Session} {c : Bool} {cs : List Point} {e : Err} {k : Nat}
  {command daddr status : Word} {rca : BitVec 16}

theorem retryTransfer_ok (k : Nat) : Runs (retryTransfer (hostIn cs) command daddr k .ok) s .ok s := by
  cases k with
  | zero => exact Runs.returned
  | succ k => exact Runs.passed (Runs.of_pos rfl Runs.pure)

theorem retryTransfer_spent (e : Err) : Runs (retryTransfer (hostIn cs) command daddr 0 e) s e s := Runs.returned

/-- A retry after a failed attempt. -/
theorem retryTransfer_again (hi : n.bound = some i) (hrca : n.rca = some rca) (hst : decodeCardStatus status = .ok) {e1 : Err} (he : e1 ≠ .ok)
    (h : Attempts cs command daddr k (s.left i x (p.answeredShort s.clearMask 55 (rcaArgument rca) 1 55 status) n true) e t) :
    Runs (retryTransfer (hostIn cs) command daddr (k + 1) e1) (s.left i (shortScript i 55 status ++ x) p n c) e t := by
  obtain ⟨e2, v, hcmd, hretry⟩ := h (cs ++ [⟨.xferBlocks, 27, 0⟩])
  exact Runs.passed (Runs.of_neg he ((Runs.readRcaArg (by simpa using hrca)).bind ((accepted_left hi (by decide) _ hst).bind
    (hcmd.bind (Runs.passed hretry)))))

/-- The card accepts the command. -/
theorem attempts_accepted (hi : n.bound = some i) (hc : command.toNat < 64) (hst : decodeCardStatus status = .ok) (k : Nat) :
    Attempts cs command daddr k (s.left i (shortScript i command status ++ rest) p n c) .ok
      (s.left i rest (p.answeredShort s.clearMask command daddr 1 command status) n (command = 55)) :=
  fun _ => ⟨.ok, _, accepted_left hi hc _ hst, retryTransfer_ok k⟩

/-- An attempt that fails its CRC check. -/
theorem attempt_fails (hi : n.bound = some i) (hc : command.toNat < 64) (daddr : Word) : Runs (transmitCommand (hostIn cs) command daddr 1)
    (s.left i (quiet 4 ++ shortAnswer i 0 0 ccrcfail :: [] :: [] :: rest) p n c) .crcFail
    (s.left i rest (p.answeredShort s.clearMask command daddr 1 0 0) n (command = 55 && Err.crcFail = .ok)) :=
  flagged_left hi hc daddr (by decide) (by decide) (by decide) 0 0 (by decide) (by decide)

/-- The last attempt fails. -/
theorem attempts_spent (hi : n.bound = some i) (hc : command.toNat < 64) :
    Attempts cs command daddr 0 (s.left i (quiet 4 ++ shortAnswer i 0 0 ccrcfail :: [] :: [] :: rest) p n c) .crcFail
      (s.left i rest (p.answeredShort s.clearMask command daddr 1 0 0) n (command = 55 && Err.crcFail = .ok)) :=
  fun _ => ⟨.crcFail, _, attempt_fails hi hc _, retryTransfer_spent _⟩

theorem failedAttempt_append (i : Sdmmc) (status : Word) (x : List (List Move)) :
    failedAttempt i status ++ x = quiet 4 ++ shortAnswer i 0 0 ccrcfail :: [] :: [] :: (shortScript i 55 status ++ x) := by
  simp [failedAttempt, quiet]

/-- `m` failed attempts before the others. -/
theorem attempts_fail (hi : n.bound = some i) (hc : command.toNat < 64) (hrca : n.rca = some rca) (hst : decodeCardStatus status = .ok) (m : Nat)
    (h : ∀ c, Attempts cs command daddr k (s.left i x (Periph.reattempts s.clearMask command daddr status rca m p) n c) e t) (c : Bool) :
    Attempts cs command daddr (k + m) (s.left i ((List.replicate m (failedAttempt i status)).flatten ++ x) p n c) e t := by
  induction m generalizing p c with
  | zero => exact h c
  | succ m ih =>
    rw [List.replicate_succ, List.flatten_cons, List.append_assoc, failedAttempt_append]
    exact fun _ => ⟨.crcFail, _, attempt_fails hi hc _, retryTransfer_again hi hrca hst nofun (ih h true)⟩

/-- The controller keeps what an armed transfer needs. -/
theorem reissued_reattempted (hc : command.toNat < 64) (clear : Word) (p : Periph) : Reissued p (p.reattempted clear command daddr status rca) :=
  (commandSent_answeredShort p clear hc daddr 1 0 0).reissued.trans (commandSent_answeredShort _ clear (c := 55) (by decide) _ 1 55 status).reissued

theorem reissued_reattempts (hc : command.toNat < 64) (clear : Word) (m : Nat) (p : Periph) :
    Reissued p (Periph.reattempts clear command daddr status rca m p) := by
  induction m generalizing p with
  | zero => exact .refl p
  | succ m ih => exact (reissued_reattempted hc clear p).trans (ih _)

/-- A silent card. -/
theorem retryTransfer_silent (hi : n.bound = some i) (hc : command.toNat < 64) (hrca : n.rca = some rca) (k : Nat) (p : Periph) (c : Bool) :
    ∃ q c', Reissued p q ∧ Runs (retryTransfer (hostIn cs) command daddr k .timeout) (s.left i [] p n c) .timeout (s.left i [] q n c') := by
  induction k generalizing p c with
  | zero => exact ⟨p, c, .refl p, retryTransfer_spent _⟩
  | succ k ih =>
    obtain ⟨q, c', hq, h⟩ := ih ((p.commanded s.clearMask 55 (rcaArgument rca) 1).commanded s.clearMask command daddr 1) false
    refine ⟨q, c', ((commandSent_commanded p s.clearMask (c := 55) (by decide) _ 1).reissued.trans
      (commandSent_commanded _ s.clearMask hc daddr 1).reissued).trans hq, ?_⟩
    exact Runs.passed (Runs.of_neg nofun ((Runs.readRcaArg (by simpa using hrca)).bind ((silent_left hi (by decide) _ (by decide)).bind
      ((silent_left hi hc _ (by decide)).bind (Runs.passed h)))))

theorem attempts_silent (hi : n.bound = some i) (hc : command.toNat < 64) (hrca : n.rca = some rca) (k : Nat) (p : Periph) (c : Bool) :
    ∃ q c', Reissued p q ∧ Attempts cs command daddr k (s.left i [] p n c) .timeout (s.left i [] q n c') := by
  obtain ⟨q, c', hq, h⟩ := retryTransfer_silent (s := s) (cs := cs) (daddr := daddr) hi hc hrca k (p.commanded s.clearMask command daddr 1) false
  exact ⟨q, c', (commandSent_commanded p s.clearMask hc daddr 1).reissued.trans hq, fun _ => ⟨.timeout, _, silent_left hi hc _ (by decide), h⟩⟩

/-! ### The transfer command (44 R307, R309) -/

theorem sendTransferCommand_ok (h : Attempts cs command daddr 9 u .ok t) : Runs (sendTransferCommand (hostIn cs) d command daddr) u .ok t := by
  obtain ⟨e1, v, hcmd, hretry⟩ := h (cs ++ [⟨.xferBlocks, 24, 0⟩])
  exact Runs.passed (hcmd.bind (hretry.bind (Runs.passed (Runs.of_pos rfl Runs.returned))))

theorem exhaust_left (hi : n.bound = some i) : Runs (update State.exhaust) (s.left i x p n c) () (s.left i x { p with exhausted := true } n c) := by
  refine Runs.update (fun h => ?_)
  rw [State.exhaust, State.setHostStep_session, State.left_session, hi]
  cases i <;> rfl

/-- Ten attempts have failed. -/
theorem sendTransferCommand_exhausted (hi : n.bound = some i) (he : e ≠ .ok) (hq : x.headD [] = [])
    (h : Attempts cs command daddr 9 u e (s.left i x p n c)) : Runs (sendTransferCommand (hostIn cs) d command daddr) u e
      ((s.setXfer (clearInProgress d s.xfer)).left i x.tail { p with exhausted := true } n c) := by
  obtain ⟨e1, v, hcmd, hretry⟩ := h (cs ++ [⟨.xferBlocks, 24, 0⟩])
  exact Runs.passed (hcmd.bind (hretry.bind (Runs.passed (Runs.of_neg he (Runs.passed ((xferWrite_left hq _).bind ((exhaust_left hi).bind Runs.returned)))))))

end

/-! ### A whole transfer call -/

/-- The state but for the bound controller once the cache hook has run and the transfer is armed. -/
def State.transferring (s : State) (d : Dir) (buffer numBlocks : Word) : State :=
  (s.hooked d buffer.toNat (blockBytes * numBlocks.toNat)).armed d buffer numBlocks

/-- The controller once CMD16 was accepted and the transfer is armed. -/
def Periph.transferring (p : Periph) (clear status timeout : Word) (d : Dir) (buffer numBlocks : Word) : Periph :=
  (p.answeredShort clear 16 512 1 16 status).dmaArmed timeout d buffer numBlocks

section
variable {s t : State} {i : Sdmmc} {d : Dir} {x rest : List (List Move)} {p q : Periph} {c : Bool} {e : Err}
  {address buffer numBlocks status : Word} {t0 : CardType}

theorem State.hooked_cfg (s : State) (d : Dir) (a len : Nat) : (s.hooked d a len).cfg = s.cfg := by rw [State.hooked_eq]

/-- A call up to its transfer command. -/
theorem xferBlocks_arms (hi : s.session.bound = some i) (h : TransferAdmitted s t0 address buffer numBlocks) (hst : decodeCardStatus status = .ok)
    (hs : s.sched = admissionScript ++ shortScript i 16 status ++ armScript s.cfg.cacheHooks ++ x)
    (hsend : Runs (sendTransferCommand hostFrame d (transferCommand d (countOf numBlocks)) (dataAddress t0 address))
      ((s.transferring d buffer numBlocks).left i x ((s.periph i).transferring s.clearMask status s.cfg.dtimer d buffer numBlocks) s.session false) e t) :
    Runs (xferBlocks hostFrame d address buffer 512 numBlocks) s e t := by
  have hscript : s.sched = [] :: [] :: (shortScript i 16 status ++ (quiet (if s.cfg.cacheHooks then 1 else 0) ++ (quiet 14 ++ x))) := by
    rw [hs]
    simp [admissionScript, armScript, quiet]
  refine Runs.start i hscript ((checkOperands_left h rfl rfl).bind ((Runs.readCardType (by simpa using h.1)).bind (Runs.passed
    ((accepted_left hi (by decide) _ hst).thenOk ((cacheHook_left d _ _).bind ((armTransfer_left hi d buffer numBlocks).bind ?_))))))
  rw [State.hooked_cfg]
  exact hsend

theorem armedFrom_transferring (hr : Reissued ((s.periph i).transferring s.clearMask status s.cfg.dtimer d buffer numBlocks) q) :
    ArmedFrom (s.periph i) s.cfg.dtimer d buffer numBlocks q :=
  ((armedFrom_dmaArmed _ s.cfg.dtimer d buffer numBlocks).of_reissued
    (commandSent_answeredShort (s.periph i) s.clearMask (c := 16) (by decide) 512 1 16 status).reissued).reissued hr

end

end Sys2Proof.Machine

/-! SUPPORT. Whole transfer calls: accepted, retried, given up (44 R302 to R311). -/

namespace Sys2Proof.Machine

/-! ### What a transfer call changes beside its controller -/

section
variable {s : State} {i : Sdmmc} {d : Dir} {rest : List (List Move)} {p : Periph} {n : Session} {c : Bool} {buffer numBlocks : Word}

@[simp] theorem State.left_stale : (s.left i rest p n c).stale = s.stale := by cases i <;> rfl
@[simp] theorem State.left_tainted : (s.left i rest p n c).tainted = s.tainted := by cases i <;> rfl

theorem State.transferring_eq (s : State) (d : Dir) (buffer numBlocks : Word) : s.transferring d buffer numBlocks = { s with
    xfer := s.xfer.armed d numBlocks, windows := ⟨d, buffer.toNat, 512 * numBlocks.toNat⟩ :: s.windows
    stale := (s.transferring d buffer numBlocks).stale, tainted := (s.transferring d buffer numBlocks).tainted } := by
  obtain ⟨st, ta, h⟩ : ∃ st ta, s.hooked d buffer.toNat (blockBytes * numBlocks.toNat) = { s with stale := st, tainted := ta } := ⟨_, _, State.hooked_eq ..⟩
  rw [State.transferring, h]
  rfl

theorem State.transferring_xfer (s : State) (d : Dir) (buffer numBlocks : Word) : (s.transferring d buffer numBlocks).xfer = s.xfer.armed d numBlocks := by
  rw [State.transferring_eq]

/-- Invalidating takes the bytes of a range out of a buffer. -/
theorem exists_mem_minus (w : Buffer) (a len x : Nat) : (∃ v ∈ w.minus a len, v.base ≤ x ∧ x < v.base + v.len) ↔
    (w.base ≤ x ∧ x < w.base + w.len) ∧ ¬(a ≤ x ∧ x < a + len) := by
  simp only [Buffer.minus, List.mem_filter, List.mem_cons, List.not_mem_nil, or_false, decide_eq_true_eq]
  constructor
  · rintro ⟨v, ⟨rfl | rfl, -⟩, hlow, hhigh⟩
    · simp only at hlow hhigh
      omega
    · simp only at hlow hhigh
      omega
  · rintro ⟨⟨hlow, hhigh⟩, hout⟩
    by_cases hx : x < a
    · exact ⟨_, ⟨.inl rfl, by simp only; omega⟩, by simp only; omega, by simp only; omega⟩
    · exact ⟨_, ⟨.inr rfl, by simp only; omega⟩, by simp only; omega, by simp only; omega⟩

/-- The bytes the host may see stale after a read was armed (20 R90). -/
theorem transferring_stale_read (h : s.cfg.cacheHooks = true) (x : Nat) :
    (∃ w ∈ (s.transferring .read buffer numBlocks).stale, w.base ≤ x ∧ x < w.base + w.len) ↔
      (∃ w ∈ s.stale, w.base ≤ x ∧ x < w.base + w.len) ∧ ¬(buffer.toNat ≤ x ∧ x < buffer.toNat + 512 * numBlocks.toNat) := by
  have hst : (s.transferring .read buffer numBlocks).stale = s.stale.flatMap (fun w => w.minus buffer.toNat (512 * numBlocks.toNat)) := by
    simp [State.transferring, State.armed, State.opened, State.hooked, h, blockBytes]
  rw [hst]
  constructor
  · rintro ⟨v, hv, hx⟩
    obtain ⟨w, hw, hvw⟩ := List.mem_flatMap.1 hv
    obtain ⟨hin, hout⟩ := (exists_mem_minus w _ _ x).1 ⟨v, hvw, hx⟩
    exact ⟨⟨w, hw, hin⟩, hout⟩
  · rintro ⟨⟨w, hw, hin⟩, hout⟩
    obtain ⟨v, hvw, hx⟩ := (exists_mem_minus w _ _ x).2 ⟨hin, hout⟩
    exact ⟨v, List.mem_flatMap.2 ⟨w, hw, hvw⟩, hx⟩

theorem transferring_stale_unhooked (h : s.cfg.cacheHooks = false) :
    (s.transferring .read buffer numBlocks).stale = ⟨.read, buffer.toNat, 512 * numBlocks.toNat⟩ :: s.stale := by
  simp [State.transferring, State.armed, State.opened, State.hooked, h, blockBytes]

theorem transferring_tainted_read : (s.transferring .read buffer numBlocks).tainted = s.tainted := by
  cases h : s.cfg.cacheHooks <;> simp [State.transferring, State.armed, State.opened, State.hooked, h]

theorem transferring_stale_write : (s.transferring .write buffer numBlocks).stale = s.stale := by
  cases h : s.cfg.cacheHooks <;> simp [State.transferring, State.armed, State.opened, State.hooked, h]

/-- The bytes a card may not yet see after a write was armed (20 R90). -/
theorem mem_transferring_tainted (h : s.cfg.cacheHooks = true) (x : Nat) : x ∈ (s.transferring .write buffer numBlocks).tainted ↔
    x ∈ s.tainted ∧ ¬(buffer.toNat ≤ x ∧ x < buffer.toNat + 512 * numBlocks.toNat) := by
  have hta : (s.transferring .write buffer numBlocks).tainted = s.tainted.filter
      (fun x => !(decide (buffer.toNat ≤ x) && decide (x < buffer.toNat + 512 * numBlocks.toNat))) := by
    rw [State.transferring]
    unfold State.hooked
    rw [if_pos h]
    rfl
  rw [hta, List.mem_filter, Bool.not_eq_true', ← Bool.not_eq_true, Bool.and_eq_true, decide_eq_true_eq, decide_eq_true_eq]

theorem transferring_tainted_unhooked (h : s.cfg.cacheHooks = false) : (s.transferring .write buffer numBlocks).tainted = s.tainted := by
  simp [State.transferring, State.armed, State.opened, State.hooked, h]

end

/-! ### The command of a transfer -/

section
variable {p : Periph} {numBlocks a : Word} {x : Transfer} {d : Dir}

theorem transferCommand_read (numBlocks : Word) : transferCommand .read (countOf numBlocks) = if numBlocks.toNat > 1 then 18 else 17 := by
  unfold countOf
  split <;> rfl

theorem transferCommand_write (numBlocks : Word) : transferCommand .write (countOf numBlocks) = if numBlocks.toNat > 1 then 25 else 24 := by
  unfold countOf
  split <;> rfl

theorem transferCommand_lt (d : Dir) (k : Count) : (transferCommand d k).toNat < 64 := by cases d <;> cases k <;> decide

theorem transferCommand_ne_appCmd (d : Dir) (k : Count) : transferCommand d k ≠ 55 := by cases d <;> cases k <;> decide

/-- The command word of a transfer: short response, `CMDTRANS` kept, the command ended (30 R101). -/
theorem transfer_cmdr (h : p.cmdr.getLsbD 6 = true) (clear : Word) (d : Dir) (k : Count) (status : Word) :
    (p.answeredShort clear (transferCommand d k) a 1 (transferCommand d k) status).cmdr &&& 0x137F = 0x140 ||| transferCommand d k := by
  have hold : p.cmdr &&& 0x40 = 0x40 := by
    refine BitVec.eq_of_getLsbD_eq (fun j hj => ?_)
    have hbits : ∀ j < 32, (0x40 : Word).getLsbD j = decide (j = 6) := by decide
    rw [BitVec.getLsbD_and, hbits j hj]
    by_cases h6 : j = 6
    · rw [h6, h]; rfl
    · simp [h6]
  have hmask : ~~~cmdClearMask &&& (~~~cpsmen &&& 0x137F) = 0x40 := by decide
  show commandWord p.cmdr (transferCommand d k) 1 &&& ~~~cpsmen &&& 0x137F = _
  rw [BitVec.and_assoc, commandWord, BitVec.and_or_distrib_right, BitVec.and_or_distrib_right, BitVec.and_or_distrib_right, BitVec.and_assoc, hmask, hold]
  cases d <;> cases k <;> decide

theorem Transfer.armed_eq (hrx : x.rxCplt = false) (htx : x.txCplt = false) (d : Dir) (numBlocks : Word) : x.armed d numBlocks =
    { operation := some ⟨if numBlocks.toNat > 1 then .multiple else .single, d⟩, complete := false, error := .ok,
      rxCplt := decide (d = .read), txCplt := decide (d = .write) } := by
  cases d <;> simp [Transfer.armed, setInProgress, hrx, htx, countOf]

/-- The in-progress flags after a call that gave up. -/
theorem clearInProgress_armed (hrx : x.rxCplt = false) (htx : x.txCplt = false) (d : Dir) (numBlocks : Word) :
    (clearInProgress d (x.armed d numBlocks)).rxCplt = false ∧ (clearInProgress d (x.armed d numBlocks)).txCplt = false ∧
      (clearInProgress d (x.armed d numBlocks)).error = .ok := by
  rw [Transfer.armed_eq hrx htx]
  cases d <;> exact ⟨rfl, rfl, rfl⟩

end

/-! ### The obligations -/

/-- Settles O47: the state of an armed transfer, its command accepted. -/
theorem transferArms : Obligations.TransferArms := by
  unfold Obligations.TransferArms
  intro s i d t0 address buffer numBlocks status rest hi h hst c hs
  have hc : c = transferCommand d (countOf numBlocks) := by
    cases d with
    | read => exact (transferCommand_read numBlocks).symm
    | write => exact (transferCommand_write numBlocks).symm
  clear_value c
  subst hc
  have hlt := transferCommand_lt d (countOf numBlocks)
  rw [List.append_assoc] at hs
  have hrun := xferBlocks_arms hi h hst hs (sendTransferCommand_ok (attempts_accepted hi hlt hst 9))
  have harmed := armedFrom_transferring (s := s) (i := i) (d := d) (status := status) (buffer := buffer) (numBlocks := numBlocks) (.refl _)
  have hsent := commandSent_answeredShort ((s.periph i).transferring s.clearMask status s.cfg.dtimer d buffer numBlocks) s.clearMask hlt
    (dataAddress t0 address) 1 (transferCommand d (countOf numBlocks)) status
  have hbase := State.transferring_eq s d buffer numBlocks
  obtain ⟨stale, hstale⟩ : ∃ st, (s.transferring d buffer numBlocks).stale = st := ⟨_, rfl⟩
  obtain ⟨tainted, htaint⟩ : ∃ ta, (s.transferring d buffer numBlocks).tainted = ta := ⟨_, rfl⟩
  rw [hstale, htaint] at hbase
  rw [hbase] at hrun
  rw [exec_transferCall]
  refine ⟨_, hrun.finish, rfl, rfl, by simp, ?_, ?_, ?_, ?_, by simp, by cases i <;> rfl, by cases i <;> rfl, by cases i <;> rfl, by cases i <;> rfl,
    by cases i <;> rfl, by cases i <;> rfl, by cases i <;> rfl, by cases i <;> rfl, fun j hj => ?_, fun hd => ?_, fun hd => ?_, fun hd => ?_, ?_,
    by cases i <;> rfl, fun hd hhooks => ?_, fun hd hhooks => ?_, by cases i <;> rfl, by cases i <;> rfl, by cases i <;> rfl⟩
  · rw [State.setReturn_periph, State.left_periph]
    exact (armedFrom_transferring hsent.reissued).armed
  · rw [State.setReturn_periph, State.left_periph]
    exact transfer_cmdr harmed.2 _ _ _ _
  · rw [State.setReturn_periph, State.left_periph]
    rfl
  · rw [State.setReturn_xfer, State.left_xfer]
    exact Transfer.armed_eq h.2.1 h.2.2.1 d numBlocks
  · cases i with
    | sdmmc1 =>
      cases j with
      | sdmmc1 => exact absurd rfl hj
      | sdmmc2 => rfl
    | sdmmc2 =>
      cases j with
      | sdmmc1 => rfl
      | sdmmc2 => exact absurd rfl hj
  · rw [State.setReturn_stale, State.left_stale]
    subst hd
    cases hhooks : s.cfg.cacheHooks with
    | true =>
      rw [if_pos rfl, ← hstale]
      exact transferring_stale_read hhooks
    | false =>
      rw [if_neg (by decide), ← hstale]
      exact transferring_stale_unhooked hhooks
  · rw [State.setReturn_tainted, State.left_tainted, ← htaint]
    subst hd
    exact transferring_tainted_read
  · rw [State.setReturn_stale, State.left_stale, ← hstale]
    subst hd
    exact transferring_stale_write
  · rw [State.setReturn_appCmd, State.left_appCmd]
    exact decide_eq_false (transferCommand_ne_appCmd _ _)
  · rw [State.setReturn_tainted, State.left_tainted, ← htaint]
    subst hd
    exact mem_transferring_tainted hhooks
  · rw [State.setReturn_tainted, State.left_tainted, ← htaint]
    subst hd
    exact transferring_tainted_unhooked hhooks

/-- Settles O48: each failed attempt is followed by the probe and the next attempt, up to the tenth. -/
theorem transferRetries : Obligations.TransferRetries := by
  unfold Obligations.TransferRetries
  intro s i d t0 rca address buffer numBlocks status n rest hi hrca h hst c
  have hc : c = transferCommand d (countOf numBlocks) := by
    cases d with
    | read => exact (transferCommand_read numBlocks).symm
    | write => exact (transferCommand_write numBlocks).symm
  clear_value c
  subst hc
  have hlt := transferCommand_lt d (countOf numBlocks)
  rw [exec_transferCall]
  refine ⟨fun hn hs => ?_, fun hs => ?_⟩
  · obtain ⟨k, hk⟩ : ∃ k, k + n = 9 := ⟨9 - n, by omega⟩
    have hs' : s.sched = admissionScript ++ shortScript i 16 status ++ armScript s.cfg.cacheHooks ++
        ((List.replicate n (failedAttempt i status)).flatten ++ (shortScript i (transferCommand d (countOf numBlocks)) status ++ rest)) := by
      rw [hs]
      simp only [List.append_assoc]
    have hattempts := attempts_fail (s := s.transferring d buffer numBlocks) (p := (s.periph i).transferring s.clearMask status s.cfg.dtimer d buffer numBlocks)
      (cs := []) (daddr := dataAddress t0 address) hi hlt hrca hst n (fun c => attempts_accepted (rest := rest) hi hlt hst k) false
    rw [hk] at hattempts
    refine ⟨_, (xferBlocks_arms hi h hst hs' (sendTransferCommand_ok hattempts)).finish, rfl, by simp, ?_, ?_⟩
    · rw [State.setReturn_xfer, State.left_xfer, State.transferring_xfer]
      cases d <;> rfl
    · rw [State.setReturn_periph, State.left_periph]
      exact (armedFrom_transferring ((reissued_reattempts hlt _ n _).trans (commandSent_answeredShort _ _ hlt _ 1 _ _).reissued)).armed
  · have hs' : s.sched = admissionScript ++ shortScript i 16 status ++ armScript s.cfg.cacheHooks ++
        ((List.replicate 9 (failedAttempt i status)).flatten ++ (quiet 4 ++ shortAnswer i 0 0 ccrcfail :: [] :: [] :: [] :: rest)) := by
      rw [hs]
      simp [quiet]
    have hattempts := attempts_fail (s := s.transferring d buffer numBlocks) (p := (s.periph i).transferring s.clearMask status s.cfg.dtimer d buffer numBlocks)
      (cs := []) (daddr := dataAddress t0 address) hi hlt hrca hst 9 (fun c => attempts_spent (rest := [] :: rest) hi hlt) false
    have hsend := sendTransferCommand_exhausted (d := d) (e := .crcFail) (x := [] :: rest) hi (by decide) rfl hattempts
    refine ⟨_, (xferBlocks_arms hi h hst hs' hsend).finish, rfl, rfl, by simp, ?_⟩
    rw [State.setReturn_xfer, State.left_xfer, State.setXfer_xfer, State.transferring_xfer, State.setReturn_periph, State.left_periph]
    obtain ⟨hrx, htx, herr⟩ := clearInProgress_armed h.2.1 h.2.2.1 d numBlocks
    exact ⟨hrx, htx, herr, (armedFrom_transferring ((reissued_reattempts hlt _ 9 _).trans
      (commandSent_answeredShort _ _ hlt _ 1 _ _).reissued)).exhaust.armed⟩

/-- Settles O49: ten attempts time out; a silent CMD16 ends the call before anything is armed. -/
theorem silentTransferGivesUp : Obligations.SilentTransferGivesUp := by
  unfold Obligations.SilentTransferGivesUp
  intro s i d t0 rca address buffer numBlocks status hi hrca h
  rw [exec_transferCall]
  refine ⟨fun hst hs => ?_, fun hs => ?_⟩
  · obtain ⟨q, c, hq, hattempts⟩ := attempts_silent (s := s.transferring d buffer numBlocks) (cs := []) (daddr := dataAddress t0 address) hi
      (transferCommand_lt d (countOf numBlocks)) hrca 9 ((s.periph i).transferring s.clearMask status s.cfg.dtimer d buffer numBlocks) false
    rw [← List.append_nil (armScript _), ← List.append_assoc] at hs
    have hsend := sendTransferCommand_exhausted (d := d) (e := .timeout) (x := []) hi (by decide) rfl hattempts
    refine ⟨_, (xferBlocks_arms hi h hst hs hsend).finish, rfl, rfl, ?_⟩
    rw [State.setReturn_xfer, State.left_xfer, State.setXfer_xfer, State.transferring_xfer, State.setReturn_periph, State.left_periph]
    obtain ⟨hrx, htx, herr⟩ := clearInProgress_armed h.2.1 h.2.2.1 d numBlocks
    exact ⟨hrx, htx, herr, by simp, (armedFrom_transferring hq).exhaust.armed⟩
  · have hadmit : Runs (checkOperands hostFrame address buffer 512 numBlocks) (s.left i [] (s.periph i) s.session s.appCmd) ()
        (s.left i [] (s.periph i) s.session s.appCmd) := checkOperands_left (x := []) h rfl rfl
    have hcard : Runs readCardType (s.left i [] (s.periph i) s.session s.appCmd) t0 (s.left i [] (s.periph i) s.session s.appCmd) :=
      Runs.readCardType (by simpa using h.1)
    have hrun : Runs (xferBlocks hostFrame d address buffer 512 numBlocks) s .timeout
        (s.left i [] ((s.periph i).commanded s.clearMask 16 512 1) s.session false) := Runs.start i hs (hadmit.bind (hcard.bind (Runs.passed
      ((silent_left (command := 16) hi (by decide) 512 (rt := 1) (by decide)).thenOk_stop (by decide)))))
    exact hrun.finish.trans (by cases i <;> rfl)

end Sys2Proof.Machine

/-! SUPPORT. Abort over a known schedule, and a check call that surfaces a recorded error (44 R316, R318, 60 R366, R367). -/

namespace Sys2Proof.Machine

section
variable {s t : State} {i : Sdmmc} {d : Dir} {x rest : List (List Move)} {p q : Periph} {n : Session} {c : Bool} {cs : List Point} {e : Err}
  {status stopped : Word} {rca : BitVec 16}

theorem regClr_left (hi : n.bound = some i) {r : Reg} (hr : r ≠ .fifo) (m : Word) (proc : Proc) (line : Nat) :
    Runs (regClr (hostIn cs) proc line r m) (s.left i ([] :: [] :: rest) p n c) () (s.left i rest (p.write r (p.value r &&& ~~~m)) n c) :=
  (regRead_left hi rfl hr).bind (regWrite_left hi rfl _ _)

/-- A card status poll that the card answers (44 R325). -/
theorem sdGetStatus_left (hi : n.bound = some i) (hrca : n.rca = some rca) (hst : decodeCardStatus status = .ok) :
    Runs (sdGetStatus (hostIn cs)) (s.left i (shortScript i 13 status ++ [] :: rest) p n c) (statusOfState (currentState status))
      (s.left i rest (p.answeredShort s.clearMask 13 (rcaArgument rca) 1 13 status) n false) :=
  (Runs.readRcaArg (by simpa using hrca)).bind ((accepted_left hi (by decide) _ hst).thenOk ((regRead_left hi rfl (by decide)).bind Runs.returned))

/-- The first three lines of Abort. -/
theorem sdAbort_left (hi : n.bound = some i) {f : Err → Act Err} {e1 : Err} {u : State}
    (hpoll : Runs (sdGetStatus (hostIn (cs ++ [⟨.sdAbort, 4, 0⟩]))) (s.left i x p.switchedOff n c) e1 u) (hf : Runs (f e1) u e t) :
    Runs (do
      regClr (hostIn cs) .sdAbort 1 .mask xferIrqs
      regWrite (hostIn cs) ⟨.sdAbort, 2, 1⟩ .idmactrl 0
      regWrite (hostIn cs) ⟨.sdAbort, 3, 1⟩ .icr staticFlags
      let e ← sdGetStatus ((hostIn cs).call ⟨.sdAbort, 4, 0⟩)
      f e) (s.left i ([] :: [] :: [] :: [] :: x) p n c) e t :=
  (regClr_left hi (by decide) _ _ _).bind ((regWrite_left hi rfl _ _).bind ((regWrite_left hi rfl _ _).bind (hpoll.bind hf)))

/-- Abort of a card that is not busy (60 R367). -/
theorem sdAbort_idle (hi : n.bound = some i) (hrca : n.rca = some rca) (hst : decodeCardStatus status = .ok)
    (hidle : statusOfState (currentState status) ≠ .busy) :
    Runs (sdAbort (hostIn cs)) (s.left i (quiet 4 ++ (shortScript i 13 status ++ [] :: rest)) p n c) .ok
      (s.left i rest (p.switchedOff.answeredShort s.clearMask 13 (rcaArgument rca) 1 13 status) n false) :=
  sdAbort_left hi (sdGetStatus_left hi hrca hst) (Runs.of_neg hidle Runs.returned)

/-- Abort of a busy card, as its stop command goes. -/
theorem sdAbort_busy (hi : n.bound = some i) (hrca : n.rca = some rca) (hst : decodeCardStatus status = .ok)
    (hbusy : statusOfState (currentState status) = .busy)
    (h : Runs (transmitCommand (hostIn (cs ++ [⟨.sdAbort, 5, 0⟩])) 12 0 1)
      (s.left i x (p.switchedOff.answeredShort s.clearMask 13 (rcaArgument rca) 1 13 status) n false) e t) :
    Runs (sdAbort (hostIn cs)) (s.left i (quiet 4 ++ (shortScript i 13 status ++ [] :: x)) p n c) e t :=
  sdAbort_left hi (sdGetStatus_left hi hrca hst) (Runs.of_pos hbusy h)

/-! ### Surfacing (44 R316, R318) -/

theorem closeWindow_left (d : Dir) : Runs (closeWindow d) (s.left i x p n c) () ((s.reportEnd d).left i x p n c) := Runs.update (fun _ => by cases i <;> rfl)

/-- An Abort that gave `Ok` ends the transfer. -/
theorem surfaceError_ends (proc : Proc) (line : Nat)
    (h : Runs (sdAbort (hostIn (cs ++ [⟨proc, line + 1, 0⟩]))) (s.left i x p n c) .ok (s.left i ([] :: rest) q n false)) :
    Runs (surfaceError (hostIn cs) proc line d) (s.left i ([] :: x) p n c) s.xfer.error
      (((s.setXfer (clearInProgress d s.xfer)).reportEnd d).left i rest q n false) := by
  refine (xferRead_left rfl _).bind (h.bind (Runs.bind (Runs.onlyIf_true ((xferWrite_left rfl _).bind (closeWindow_left d))) Runs.returned))

/-- An Abort that failed leaves the transfer as it is. -/
theorem surfaceError_fails (he : e ≠ .ok) (proc : Proc) (line : Nat)
    (h : Runs (sdAbort (hostIn (cs ++ [⟨proc, line + 1, 0⟩]))) (s.left i x p n c) e t) :
    Runs (surfaceError (hostIn cs) proc line d) (s.left i ([] :: x) p n c) s.xfer.error t := by
  have hskip : Runs (onlyIf (e = .ok) (endTransfer (hostIn cs) ⟨proc, line + 1, 1⟩ d)) t () t := by
    rw [decide_eq_false he]
    exact Runs.onlyIf_false
  exact (xferRead_left rfl _).bind (h.bind (hskip.bind Runs.returned))

/-- The reads of a check call before it surfaces an error. -/
def checkReads : CheckForm → Nat
  | .nested => 2
  | .errorFirst => 1

/-- A check call that finds a recorded error. -/
theorem checkTransfer_runs (herr : s.xfer.error ≠ .ok) (hform : s.cfg.checkForm = .errorFirst ∨ inProgress d s.xfer = true)
    (h : ∀ proc line, Runs (surfaceError hostFrame proc line d) (s.left i x p n c) e t) :
    Runs (checkTransfer hostFrame d) (s.left i (quiet (checkReads s.cfg.checkForm) ++ x) p n c) e t := by
  refine Runs.getState_bind (fun _ => ?_)
  rw [State.setHostStep_cfg, State.left_cfg]
  cases hcase : s.cfg.checkForm with
  | nested =>
    rw [hcase] at hform
    exact (xferRead_left rfl _).bind (Runs.of_pos (hform.resolve_left (by decide)) ((xferRead_left rfl _).bind (Runs.of_neg herr (h _ _))))
  | errorFirst => exact (xferRead_left rfl _).bind (Runs.of_neg herr (h _ _))

theorem switchedOff_left (p : Periph) (clear a : Word) (status : Word) : SwitchedOff p (p.switchedOff.answeredShort clear 13 a 1 13 status) :=
  (switchedOff_switchedOff p).command (commandSent_answeredShort _ clear (c := 13) (by decide) a 1 13 status)

/-- What a check call leaves when it ends the transfer of direction `d` after an error. -/
theorem checkCall_ends (hi : s.session.bound = some i) (herr : s.xfer.error ≠ .ok) (hform : s.cfg.checkForm = .errorFirst ∨ inProgress d s.xfer = true)
    (hs : s.sched = quiet (checkReads s.cfg.checkForm) ++ [] :: x) (hq : SwitchedOff (s.periph i) q)
    (h : ∀ cs, Runs (sdAbort (hostIn cs)) (s.left i x (s.periph i) s.session s.appCmd) .ok (s.left i ([] :: rest) q s.session false)) :
    ∃ t, exec (checkCall d) s = .next t ∧ t.result = .err s.xfer.error ∧ t.hostStep = .idle ∧ t.sched = rest ∧
      t.xfer = clearInProgress d s.xfer ∧ t.session = s.session ∧ (t.periph i).mask = (s.periph i).mask &&& ~~~xferIrqs ∧ (t.periph i).idmactrl = 0 ∧
      t.sent = (s.reportEnd d).sent ∧ t.windows = (s.reportEnd d).windows := by
  have hrun := Runs.start i hs (checkTransfer_runs herr hform (fun proc line => surfaceError_ends (cs := []) (rest := rest) (q := q) proc line (h _)))
  refine ⟨_, (exec_checkCall d s).trans hrun.finish, rfl, rfl, by simp, by simp [State.reportEnd], by simp, ?_, ?_, by cases i <;> rfl, by cases i <;> rfl⟩
  · rw [State.setReturn_periph, State.left_periph]
    exact hq.mask
  · rw [State.setReturn_periph, State.left_periph]
    exact hq.idmactrl

end

/-- Settles O51: the Abort of the call decides whether the transfer ends. -/
theorem checkCallSurfacesErrors : Obligations.CheckCallSurfacesErrors := by
  unfold Obligations.CheckCallSurfacesErrors
  intro s i d rca status stopped rest hi hrca herr hform hst lead busy
  have hlead (y : List (List Move)) :
      lead ++ y = quiet (checkReads s.cfg.checkForm) ++ [] :: (quiet 4 ++ (shortScript i 13 status ++ [] :: y)) := by
    simp only [lead]
    cases s.cfg.checkForm <;> simp [quiet, checkReads, List.replicate_succ]
  have hbusy (h : busy) : statusOfState (currentState status) = .busy := statusOfState_busy (by rwa [currentState_eq])
  have hidle (h : ¬busy) : statusOfState (currentState status) ≠ .busy := statusOfState_ne_busy (by rwa [currentState_eq])
  refine ⟨fun hs hstop => ?_, fun hs hb => ?_⟩
  · have hends : ∃ t, exec (checkCall d) s = .next t ∧ t.result = .err s.xfer.error ∧ t.hostStep = .idle ∧ t.sched = rest ∧
        t.xfer = clearInProgress d s.xfer ∧ t.session = s.session ∧ (t.periph i).mask = (s.periph i).mask &&& ~~~xferIrqs ∧ (t.periph i).idmactrl = 0 ∧
        t.sent = (s.reportEnd d).sent ∧ t.windows = (s.reportEnd d).windows := by
      by_cases hb : busy
      · rw [if_pos hb, List.append_assoc, List.append_assoc, hlead] at hs
        exact checkCall_ends hi herr hform hs ((switchedOff_left _ s.clearMask (rcaArgument rca) status).command
          (commandSent_answeredShort _ s.clearMask (c := 12) (by decide) 0 1 12 stopped))
          (fun cs => sdAbort_busy hi hrca hst (hbusy hb) (accepted_left hi (by decide) 0 hstop))
      · rw [if_neg hb, List.append_assoc, hlead] at hs
        exact checkCall_ends hi herr hform hs (switchedOff_left _ s.clearMask (rcaArgument rca) status)
          (fun cs => sdAbort_idle hi hrca hst (hidle hb))
    obtain ⟨t, hexec, hres, hstep, hsch, hxfer, hsess, hmask, hidma, hsent, hwin⟩ := hends
    refine ⟨t, hexec, hres, hstep, hsch, hxfer.trans (by cases d <;> rfl), hsess, hmask, hidma, hsent.trans (by cases d <;> rfl), fun w => ?_⟩
    rw [hwin]
    exact State.mem_reportEnd_windows w
  · have hs' := hs.trans (List.append_nil lead).symm
    rw [hlead] at hs'
    have hrun := Runs.start i hs' (checkTransfer_runs herr hform (fun proc line => surfaceError_fails (cs := []) (d := d) (e := .timeout) (by decide) proc line
      (sdAbort_busy hi hrca hst (hbusy hb) (silent_left hi (by decide) 0 (by decide)))))
    exact ⟨_, (exec_checkCall d s).trans hrun.finish, rfl, rfl, by simp, by cases i <;> rfl, by cases i <;> rfl⟩

end Sys2Proof.Machine

/-! SUPPORT. The reads of session fields no rule has written (10 R33, 70 R405). -/

namespace Sys2Proof.Machine

/-! ### Where `ENV` may do anything -/

section
variable {E : Stop → State → Prop} {s : State} {i : Sdmmc} {cs : List Point} {pt : Point}

theorem undisturbed_regs (hi : s.session.bound = some i) : Regs E (Undisturbed s) (fun _ _ => True) where
  unbound t ht hb := by rw [ht.session, hi] at hb; exact absurd hb (by simp)
  read _ _ _ ht _ := by exact ⟨by simpa using ht.1, by simpa [NoInterrupt] using ht.2⟩
  value _ _ _ _ _ := trivial
  free _ := trivial
  write _ _ _ _ ht _ _ := by exact ⟨by simpa using ht.1, by simpa [NoInterrupt] using ht.2⟩
  draws _ _ ht := ht

theorem readRcaArg_unwritten (h : s.session.rca = none) : StopsWith (.fault .unwrittenSession) (Undisturbed s) readRcaArg :=
  (readOr_unwritten (fun u hu => by rw [hu.session, h])).bind _

/-- The card status poll of Abort comes to the RCA. -/
theorem sdAbort_unwritten (hi : s.session.bound = some i) (h : s.session.rca = none) :
    StopsWith (.fault .unwrittenSession) (Undisturbed s) (sdAbort (hostIn cs)) :=
  (regClr_keeps (undisturbed_regs hi) undisturbed_steps (fun _ _ => trivial)).seq (fun _ =>
    (regWrite_keeps (undisturbed_regs hi) undisturbed_steps trivial).seq (fun _ =>
      (regWrite_keeps (undisturbed_regs hi) undisturbed_steps trivial).seq (fun _ => ((readRcaArg_unwritten h).bind _).bind _)))

theorem surfaceError_unwritten (hi : s.session.bound = some i) (h : s.session.rca = none) (proc : Proc) (line : Nat) (d : Dir) :
    StopsWith (.fault .unwrittenSession) (Undisturbed s) (surfaceError hostFrame proc line d) :=
  (xferRead_undisturbed _).known ((sdAbort_unwritten hi h).bind _)

end

/-! ### First reads -/

section
variable {s t : State} {i : Sdmmc} {cs : List Point} {x rest : List (List Move)} {p : Periph} {n : Session} {c : Bool} {command : Word} {rt : Int}
  {status : Word}

theorem sendCommand_unwritten {m : Act Word} (h : Halts (.fault .unwrittenSession) m s t) (command : Word) (rt : Int) :
    Halts (.fault .unwrittenSession) (sendCommand command m rt) s t := h.bind

theorem Halts.readCardType (h : s.session.cardType = none) : Halts (.fault .unwrittenSession) readCardType s s := Halts.readOr (fun _ => h)

theorem readDataAddress_unwritten (h : s.session.cardType = none) (block : Word) : Halts (.fault .unwrittenSession) (readDataAddress block) s s :=
  (Halts.readCardType h).bind

theorem rca_unwritten {x : Instr} (h : s.session.rca = none) (hx : x ∈ [.cmd7, .cmd9, .cmd13, .cmd55 .rcaArg, .sdGetStatus, .sdGetCardInfo]) :
    exec x s = .fault .unwrittenSession := by
  have harg := Halts.readRcaArg h
  simp only [List.mem_cons, List.not_mem_nil, or_false] at hx
  obtain rfl | rfl | rfl | rfl | rfl | rfl := hx
  · exact (sendCommand_unwritten harg 7 1).finish_fault
  · exact (sendCommand_unwritten harg 9 2).finish_fault
  · exact (sendCommand_unwritten harg 13 1).finish_fault
  · exact (sendCommand_unwritten (m := readAppArgument .rcaArg) harg 55 1).finish_fault
  · exact Halts.finish_fault harg.bind
  · exact exec_sdGetCardInfo_fault (sdGetCardInfo_fault (s := s.enter .sdGetCardInfo) (.inr h))

theorem cardType_unwritten {x : Instr} {n : Word} {mode : BusMode} (h : s.session.cardType = none)
    (hx : x ∈ [.cmd17 n, .cmd18 n, .cmd24 n, .cmd25 n, .decodeCSD, .sdGetCardInfo, .wideBusOperationConfig mode]) : exec x s = .fault .unwrittenSession := by
  have haddr := readDataAddress_unwritten h n
  have hcard := Halts.readCardType h
  simp only [List.mem_cons, List.not_mem_nil, or_false] at hx
  obtain rfl | rfl | rfl | rfl | rfl | rfl | rfl := hx
  · exact (sendCommand_unwritten haddr 17 1).finish_fault
  · exact (sendCommand_unwritten haddr 18 1).finish_fault
  · exact (sendCommand_unwritten haddr 24 1).finish_fault
  · exact (sendCommand_unwritten haddr 25 1).finish_fault
  · exact Halts.finish_fault hcard.bind
  · exact exec_sdGetCardInfo_fault (sdGetCardInfo_fault (s := s.enter .sdGetCardInfo) (.inl h))
  · exact Halts.finish_fault hcard.bind

/-! ### After an answered CMD16 -/

/-- CMD16 is accepted, then the RCA is read. -/
theorem blockLength_unwritten (hi : n.bound = some i) (h : n.rca = none) (hst : decodeCardStatus status = .ok) (length : Word) {k : Word → Act Err} :
    ∃ t, Halts (.fault .unwrittenSession) (thenOk (transmitCommand (hostIn cs) 16 length 1) (readRcaArg >>= k))
      (s.left i (shortScript i 16 status ++ rest) p n c) t :=
  ⟨_, (accepted_left hi (by decide) _ hst).thenOk_halts (Halts.readRcaArg (by simpa using h)).bind⟩

/-- `findSCR` comes to the RCA. -/
theorem findSCR_unwritten (hi : n.bound = some i) (h : n.rca = none) (hst : decodeCardStatus status = .ok) (caller : ScrCaller) :
    ∃ t, Halts (.fault .unwrittenSession) (findSCR (hostIn cs) caller) (s.left i (shortScript i 16 status ++ rest) p n c) t :=
  blockLength_unwritten hi h hst 8

theorem sendSDStatus_unwritten (hi : n.bound = some i) (h : n.rca = none) (hst : decodeCardStatus status = .ok) (caller : SsrCaller) :
    ∃ t, Halts (.fault .unwrittenSession) (sendSDStatus (hostIn cs) caller) (s.left i (shortScript i 16 status ++ rest) p n c) t :=
  blockLength_unwritten hi h hst 64

/-- So does the wide-bus negotiation of an unlocked card. -/
theorem wideBus_unwritten {t0 : CardType} {mode : BusMode} (hi : n.bound = some i) (h : n.rca = none) (hst : decodeCardStatus status = .ok)
    (ht : n.cardType = some t0) (hf : t0 = .standardV1_1 ∨ t0 = .standardV2_0 ∨ t0 = .highCapacity) (hm : mode ≠ .w8) (hl : p.resp1.getLsbD 25 = false)
    (caller : WideCaller) : ∃ t, Halts (.fault .unwrittenSession) (wideBusOperationConfig (hostIn cs) caller mode)
      (s.left i ([] :: (shortScript i 16 status ++ rest)) p n c) t := by
  obtain ⟨t, hscr⟩ := findSCR_unwritten (s := s) (p := p) (c := c) (rest := rest) (cs := cs ++ [⟨.wideBusOperationConfig, 4, 0⟩]) hi h hst (.wideBus mode caller)
  have hunlocked : ¬p.resp1.getLsbD 25 = true := by rw [hl]; decide
  exact ⟨t, (Runs.readCardType (by simpa using ht)).bind_halts (Runs.passed_halts (Halts.of_pos hf (Runs.passed_halts (Halts.of_neg hm
    ((regRead_left hi rfl (by decide)).bind_halts (Halts.of_neg hunlocked hscr.thenOk))))))⟩

/-- A transfer command that fails its first attempt comes to the RCA of the probe. -/
theorem sendTransferCommand_unwritten {d : Dir} {daddr : Word} (hi : n.bound = some i) (h : n.rca = none) (hc : command.toNat < 64) :
    ∃ t, Halts (.fault .unwrittenSession) (sendTransferCommand (hostIn cs) d command daddr)
      (s.left i (quiet 4 ++ shortAnswer i 0 0 ccrcfail :: [] :: [] :: rest) p n c) t :=
  ⟨_, Runs.passed_halts ((attempt_fails hi hc daddr).bind_halts (Halts.bind (Runs.passed_halts (Halts.of_neg (by decide)
    (Halts.readRcaArg (by simpa using h)).bind))))⟩

theorem xferBlocks_unwritten {d : Dir} {t0 : CardType} {address buffer numBlocks : Word} (hi : s.session.bound = some i) (hrca : s.session.rca = none)
    (h : TransferAdmitted s t0 address buffer numBlocks) (hst : decodeCardStatus status = .ok)
    (hs : s.sched = admissionScript ++ shortScript i 16 status ++ armScript s.cfg.cacheHooks ++ (quiet 4 ++ shortAnswer i 0 0 ccrcfail :: [] :: [] :: rest)) :
    ∃ t, Halts (.fault .unwrittenSession) (xferBlocks hostFrame d address buffer 512 numBlocks) s t := by
  have hscript : s.sched = [] :: [] :: (shortScript i 16 status ++ (quiet (if s.cfg.cacheHooks then 1 else 0) ++ (quiet 14 ++
      (quiet 4 ++ shortAnswer i 0 0 ccrcfail :: [] :: [] :: rest)))) := by
    rw [hs]
    simp [admissionScript, armScript, quiet]
  obtain ⟨t, hsend⟩ := sendTransferCommand_unwritten (s := s.transferring d buffer numBlocks) (cs := []) (d := d) (rest := rest) (c := false)
    (daddr := dataAddress t0 address) (p := (s.periph i).transferring s.clearMask status s.cfg.dtimer d buffer numBlocks) hi hrca
    (transferCommand_lt d (countOf numBlocks))
  have hcfg : (s.hooked d buffer.toNat (blockBytes * numBlocks.toNat)).cfg.dtimer = s.cfg.dtimer := by rw [State.hooked_cfg]
  rw [Periph.transferring, ← hcfg] at hsend
  exact ⟨t, Halts.start i hscript ((checkOperands_left h rfl rfl).bind_halts ((Runs.readCardType (by simpa using h.1)).bind_halts (Runs.passed_halts
    ((accepted_left hi (by decide) _ hst).thenOk_halts ((cacheHook_left d _ _).bind_halts ((armTransfer_left hi d buffer numBlocks).bind_halts hsend))))))⟩

/-! ### initializeCard (41 R213, R214) -/

theorem afterCid_unwritten (h : n.cardType = none ∨ n.rca = none ∧ (n.cardType = some .secureDigitalIO ∨ n.cardType = some .unknown)) :
    Halts (.fault .unwrittenSession) (afterCid (hostIn cs)) (s.left i x p n c) (s.left i x p n c) := by
  have hother (t0 : CardType) (ht : n.cardType = some t0) (hf : sdFamily t0 = false) (hrca : n.rca = none) :
      Halts (.fault .unwrittenSession) (afterCid (hostIn cs)) (s.left i x p n c) (s.left i x p n c) :=
    (Runs.readCardType (by simpa using ht)).bind_halts (Runs.passed_halts (Halts.of_neg (by simp [hf]) (Halts.readRcaArg (by simpa using hrca)).bind))
  obtain h | ⟨hrca, h | h⟩ := h
  · exact (Halts.readCardType (by simpa using h)).bind
  · exact hother _ h rfl hrca
  · exact hother _ h rfl hrca

theorem initializeCard_unwritten {cid : Reg128} (hi : n.bound = some i) (hp : p.power.extractLsb' 0 2 ≠ 0)
    (h : n.cardType = none ∨ n.rca = none ∧ (n.cardType = some .secureDigitalIO ∨ n.cardType = some .unknown)) :
    ∃ t, Halts (.fault .unwrittenSession) (initializeCard (hostIn cs)) (s.left i ([] :: (captureScript i cid ++ rest)) p n c) t :=
  ⟨_, (regRead_left hi rfl (by decide)).bind_halts (Halts.of_neg hp ((longAnswered_left hi (by decide) _ cid).thenOk_halts
    ((captureWords_left hi (store := storeCid) (fun _ _ _ => rfl) _).bind_halts (afterCid_unwritten h))))⟩

end

/-- Settles O24: each operation up to the first read of the field. -/
theorem unwrittenSessionFaults : Obligations.UnwrittenSessionFaults := by
  unfold Obligations.UnwrittenSessionFaults
  refine ⟨fun s x h hx => rca_unwritten h hx, fun s x n mode h hx => cardType_unwritten h hx, fun s h => ?_, fun s t ht hf => ⟨fun hcsd => ?_, fun hnone => ?_⟩,
    fun s h => ?_, fun s d address buffer numBlocks h hn hrx htx hlow hhigh => ?_, fun s i hi hrca => ⟨fun hn => ?_, fun d hn herr hform => ?_,
    fun status rest hst => ⟨fun out hs => ⟨?_, ?_, ?_⟩, fun t mode ht hf hm hl hs => ?_, fun d t address buffer numBlocks hadm hs => ?_⟩⟩,
    fun s i cid rest hi hp hs h => ?_⟩
  · exact (sendCommand_unwritten (m := readAcmd41Argument) (Halts.readOr (fun _ => h)).bind 41 3).finish_fault
  · obtain ⟨u, hu⟩ := decodeCSD_fault (b := hostFrame) (s := s.enter .decodeCSD) ht hf hcsd
    exact conclude_fault hu
  · obtain ⟨-, -, hfault⟩ := getCardInfo
    exact hfault s t ht hf hnone
  · exact conclude_fault (decodeCID_fault (s := s.enter .decodeCID) h)
  · rw [exec_transferCall]
    exact (xferBlocks_stops hrx htx (operandStop_unwritten (by omega) h)).exec_fault (undisturbed_enter hn _)
  · exact (sdAbort_unwritten hi hrca).exec_fault (undisturbed_enter hn _)
  · rw [exec_checkCall]
    exact (checkTransfer_surfaces herr hform (fun _ _ => surfaceError_unwritten hi hrca _ _ _)).exec_fault (undisturbed_enter hn _)
  · obtain ⟨t, h⟩ := findSCR_unwritten (s := s) (p := s.periph i) (c := s.appCmd) (rest := rest) (cs := []) hi hrca hst .host
    exact (h.start i hs).finish_fault
  · obtain ⟨t, h⟩ := sendSDStatus_unwritten (s := s) (p := s.periph i) (c := s.appCmd) (rest := rest) (cs := []) hi hrca hst .host
    exact (h.start i hs).finish_fault
  · obtain ⟨t, h⟩ := sendSDStatus_unwritten (s := s) (p := s.periph i) (c := s.appCmd) (rest := rest) (cs := [⟨.sdGetCardStatus, 1, 0⟩]) hi hrca hst
      (.getCardStatus out)
    exact (h.thenOk.start i hs).finish_fault
  · rw [List.append_assoc] at hs
    obtain ⟨u, h⟩ := wideBus_unwritten (s := s) (c := s.appCmd) (rest := rest) (cs := []) hi hrca hst ht hf hm hl .host
    exact (h.start i hs).finish_fault
  · have hs' : s.sched = admissionScript ++ shortScript i 16 status ++ armScript s.cfg.cacheHooks ++ (quiet 4 ++ shortAnswer i 0 0 ccrcfail :: [] :: [] :: rest) := by
      rw [hs]
      simp [quiet]
    obtain ⟨u, h⟩ := xferBlocks_unwritten (d := d) hi hrca hadm hst hs'
    rw [exec_transferCall]
    exact h.finish_fault
  · rw [List.append_assoc] at hs
    obtain ⟨u, hhalt⟩ := initializeCard_unwritten (s := s) (p := s.periph i) (c := s.appCmd) (rest := rest) (cs := []) (cid := cid) hi hp h
    exact (hhalt.start i hs).finish_fault

end Sys2Proof.Machine

/-! SUPPORT. `CLKCR` changes only where `wideBusOperationConfig` succeeds (43 R289, R290), whatever `ENV` and `IRQ` do: every step but the write of the
settle loop keeps it, and that write leaves the width asked for. -/

namespace Sys2Proof.Machine

/-! ### What `CLKCR` of the bound controller shows -/

/-- `f` reads no reserved bit of `CLKCR`. -/
def Unreserved {α : Type} (f : Word → α) : Prop := ∀ c v : Word, f ((c &&& ~~~reservedMask .clkcr) ||| (v &&& reservedMask .clkcr)) = f c

theorem unreserved_and {m : Word} (h : m &&& reservedMask .clkcr = 0) : Unreserved (· &&& m) := by
  intro c v
  have hkept : ~~~reservedMask .clkcr &&& m = m := by
    refine BitVec.eq_of_getLsbD_eq (fun n hn => ?_)
    have hbit := congrArg (BitVec.getLsbD · n) h
    simp only [BitVec.getLsbD_and] at hbit
    simp only [BitVec.getLsbD_and, BitVec.getLsbD_not, hn, decide_true, Bool.true_and]
    cases hm : m.getLsbD n
    · simp
    · simpa [hm] using hbit
  show (c &&& ~~~reservedMask .clkcr ||| v &&& reservedMask .clkcr) &&& m = c &&& m
  rw [BitVec.and_or_distrib_right, BitVec.and_assoc, BitVec.and_assoc, hkept, BitVec.and_comm (reservedMask _), h]
  simp

theorem unreserved_widbus : Unreserved widbus := by
  intro c v
  have hkept : (~~~reservedMask .clkcr).extractLsb' 14 2 = BitVec.allOnes 2 := by decide
  have hreserved : (reservedMask .clkcr).extractLsb' 14 2 = 0 := by decide
  rw [widbus, BitVec.extractLsb'_or, BitVec.extractLsb'_and, BitVec.extractLsb'_and, hkept, hreserved]
  rw [BitVec.and_allOnes]
  simp [widbus]

theorem unreserved_nothing : Unreserved (fun _ => ()) := fun _ _ => rfl

/-- Controller `i` is bound, and `f` of its `CLKCR` is `a`. -/
def ClkcrShows {α : Type} (i : Sdmmc) (f : Word → α) (a : α) (s : State) : Prop := s.session.bound = some i ∧ f (s.periph i).clkcr = a

/-- Every stop is allowed: what a fault, a refusal or a hold leaves is not claimed. -/
def AnyStop (_ : Stop) (_ : State) : Prop := True

section
variable {α : Type} {i : Sdmmc} {f : Word → α} {a : α}

theorem Periph.EnvStep.clkcr {p q : Periph} (h : p.EnvStep q) (hf : Unreserved f) : f q.clkcr = f p.clkcr := by
  cases h with
  | dynFlags flags =>
    obtain ⟨sta, hk⟩ := Periph.keepRx_eq { p with sta := (p.sta &&& ~~~dynamicFlags) ||| (flags &&& dynamicFlags) }
    rw [hk]
  | respond r v => cases r <;> rfl
  | reservedBits r v =>
    cases r with
    | clkcr => exact hf p.clkcr v
    | _ => rfl
  | _ => rfl

theorem Periph.write_clkcr_other (p : Periph) {r : Reg} (v : Word) (h : r ≠ .clkcr) : (p.write r v).clkcr = p.clkcr := by
  cases r with
  | clkcr => exact absurd rfl h
  | idmactrl =>
    obtain ⟨sta, hk⟩ := Periph.keepRx_eq
      { p with idmactrl := v, dmaCount := if v.getLsbD 0 then 0 else p.dmaCount, exhausted := p.exhausted && !v.getLsbD 0 }
    rw [Periph.write, hk]
  | dctrl => rw [Periph.write]; split <;> rfl
  | _ => rfl

@[simp] theorem Periph.afterRead_clkcr (p : Periph) (r : Reg) : (p.afterRead r).clkcr = p.clkcr := by cases r <;> rfl

theorem clkcrShows_setPeriph {s : State} (h : ClkcrShows i f a s) {j : Sdmmc} {p : Periph} (hp : j = i → f p.clkcr = a) :
    ClkcrShows i f a (s.setPeriph j p) := by
  refine ⟨by simpa using h.1, ?_⟩
  by_cases hj : i = j
  · subst hj
    rw [State.periph_setPeriph]
    exact hp rfl
  · rw [State.periph_setPeriph_ne _ _ hj]
    exact h.2

theorem ClkcrShows.bound {s : State} (h : ClkcrShows i f a s) : ClkcrShows i (fun _ => ()) () s := ⟨h.1, rfl⟩

end

/-! ### The steps that write no `CLKCR` -/

section
variable {α : Type} {i : Sdmmc} {f : Word → α} {a : α} {g : Agent} {bt : Act Unit} {cs : List Point} {pt : Point}

theorem regRead_shows (hb : Steps AnyStop (ClkcrShows i f a) g bt) (r : Reg) :
    Spec AnyStop (ClkcrShows i f a) (regRead ⟨g, bt, cs⟩ pt r) (fun _ => ClkcrShows i f a) := by
  refine (hb.step pt).seq (fun _ => Spec.getState_bind (fun s hs => ?_))
  rintro t rfl
  rw [boundRegister_some hs.1]
  have hread : ClkcrShows i f a (t.setPeriph i ((t.periph i).afterRead r)) := clkcrShows_setPeriph hs (fun _ => by simpa using hs.2)
  refine Spec.bind (R := fun _ => ClkcrShows i f a) (I := (· = t)) (Spec.update (by rintro s rfl; exact hread)) (fun _ => ?_) t rfl
  exact Spec.ite (fun _ => fun _ h => h) (fun _ => Spec.pure (fun _ h => h))

theorem regWrite_shows (hb : Steps AnyStop (ClkcrShows i f a) g bt) {r : Reg} (hr : r ≠ .clkcr) (v : Word) :
    Spec AnyStop (ClkcrShows i f a) (regWrite ⟨g, bt, cs⟩ pt r v) (fun _ => ClkcrShows i f a) := by
  refine (hb.step pt).seq (fun _ => Spec.getState_bind (fun s hs => ?_))
  rintro t rfl
  rw [boundRegister_some hs.1]
  exact clkcrShows_setPeriph hs (fun _ => by rw [Periph.write_clkcr_other _ v hr]; exact hs.2)

theorem regClr_shows (hb : Steps AnyStop (ClkcrShows i f a) g bt) {proc : Proc} {line : Nat} {r : Reg} (hr : r ≠ .clkcr) (m : Word) :
    Spec AnyStop (ClkcrShows i f a) (regClr ⟨g, bt, cs⟩ proc line r m) (fun _ => ClkcrShows i f a) :=
  (regRead_shows hb r).seq (fun _ => regWrite_shows hb hr _)

/-! A command writes `ICR`, `ARGR` and `CMDR` only (40 R165). -/

theorem classify_shows (hb : Steps AnyStop (ClkcrShows i f a) g bt) (command : Word) (rt : Int) :
    Spec AnyStop (ClkcrShows i f a) (classify ⟨g, bt, cs⟩ command rt) (fun _ => ClkcrShows i f a) := by
  refine (regRead_shows hb .sta).seq (fun sta => hb.passed (fun _ => ?_))
  cases classifyFlags sta rt with
  | some e => exact Spec.pure (fun _ h => h)
  | none =>
    refine Spec.seq (Spec.refuseIf (fun _ _ _ => trivial) (fun _ _ h => h)) (fun _ => (regRead_shows hb .respcmdr).seq (fun rc => ?_))
    exact Spec.ite (fun _ => (regRead_shows hb .resp1).seq (fun r => hb.passed (fun _ => Spec.ite (fun _ => decodeStatus_keeps hb r)
      (fun _ => hb.passed (fun _ => decodeR6_keeps hb (fun _ _ h => h) r))))) (fun _ => hb.returned)

theorem pollStatus_shows (hb : Steps AnyStop (ClkcrShows i f a) g bt) (wait : Word) (n : Nat) :
    Spec AnyStop (ClkcrShows i f a) (pollStatus ⟨g, bt, cs⟩ wait n) (fun _ => ClkcrShows i f a) := by
  induction n with
  | zero => exact hb.returned
  | succ n ih =>
    exact hb.passed (fun _ => (regRead_shows hb .sta).seq (fun _ => hb.passed (fun _ => Spec.ite (fun _ => hb.returned) (fun _ => ih))))

theorem transmitCommand_shows (hb : Steps AnyStop (ClkcrShows i f a) g bt) (command argument : Word) (rt : Int) :
    Spec AnyStop (ClkcrShows i f a) (transmitCommand ⟨g, bt, cs⟩ command argument rt) (fun _ => ClkcrShows i f a) := by
  have hmark : ∀ c : State → Bool, Spec AnyStop (ClkcrShows i f a) (update (fun s => s.setAppCmd (c s))) (fun _ => ClkcrShows i f a) :=
    fun _ => Spec.update (fun _ h => h)
  have hresult : ∀ hit, Spec AnyStop (ClkcrShows i f a) (commandResult ⟨g, bt, cs⟩ hit command rt) (fun _ => ClkcrShows i f a) := fun hit =>
    hb.passed (fun _ => Spec.ite (fun _ => classify_shows hb command rt) (fun _ => hb.returned))
  refine Spec.ite (fun _ => hb.passed (fun _ => Spec.getState_seq (fun s _ => ?_))) (fun _ => Spec.refuse (fun _ _ => trivial))
  refine (regWrite_shows hb (by decide) _).seq (fun _ => (regWrite_shows hb (by decide) _).seq (fun _ => ?_))
  refine (regRead_shows hb .cmdr).seq (fun w => (regWrite_shows hb (by decide) _).seq (fun _ => (hmark _).seq (fun _ => hb.passed (fun _ => ?_))))
  refine (pollStatus_shows hb _ _).seq (fun hit => (hresult hit).seq (fun e => (regWrite_shows hb (by decide) _).seq (fun _ => ?_)))
  exact (hmark _).seq (fun _ => hb.returned)

/-! The handler writes `MASK`, `IDMACTRL` and what its stop command writes (60 R360). -/

theorem clkcrShows_handlerFree : HandlerFree AnyStop (ClkcrShows i f a) where
  appCmd _ _ h := h
  clear _ _ h := h
  complete _ h := h
  error _ _ h := h
  operation _ _ _ := trivial

theorem transferEnd_shows (hb : Steps AnyStop (ClkcrShows i f a) g bt) :
    Spec AnyStop (ClkcrShows i f a) (transferEnd ⟨g, bt, cs⟩) (fun _ => ClkcrShows i f a) := by
  have hstop : Spec AnyStop (ClkcrShows i f a) (stopCommand ⟨g, bt, cs⟩) (fun _ => ClkcrShows i f a) :=
    (transmitCommand_shows hb 12 0 1).seq (fun _ => Spec.pure (fun _ h => h))
  refine (regClr_shows hb (by decide) _).seq (fun _ => (regWrite_shows hb (by decide) _).seq (fun _ => ?_))
  refine (readOperation_keeps clkcrShows_handlerFree hb).seq (fun op => Spec.seq (onlyIf_keeps (fun _ => hstop)) (fun _ => ?_))
  refine (readOperation_keeps clkcrShows_handlerFree hb).seq (fun op => (xferWrite_keeps hb (fun _ h => h)).seq (fun _ => ?_))
  exact (xferWrite_keeps hb (fun _ h => h)).seq (fun _ => recordError_keeps clkcrShows_handlerFree hb .ok)

theorem handleEvent_shows (hb : Steps AnyStop (ClkcrShows i f a) g bt) (sta : Word) :
    Spec AnyStop (ClkcrShows i f a) (handleEvent ⟨g, bt, cs⟩ sta) (fun _ => ClkcrShows i f a) := by
  have herror : ∀ pt e, Spec AnyStop (ClkcrShows i f a) (recordError ⟨g, bt, cs⟩ pt e) (fun _ => ClkcrShows i f a) := fun _ e =>
    recordError_keeps clkcrShows_handlerFree hb e
  refine hb.passed (fun _ => Spec.ite (fun _ => transferEnd_shows hb) (fun _ => hb.passed (fun _ => Spec.ite
    (fun _ => (regWrite_shows hb (by decide) _).seq (fun _ => herror _ _)) (fun _ => hb.passed (fun _ => ?_)))))
  cases handlerError sta with
  | some e => exact herror _ e
  | none => exact Spec.pure (fun _ h => h)

theorem irqHandler_shows (hb : Steps AnyStop (ClkcrShows i f a) .irq irqFrame.between) :
    Spec AnyStop (ClkcrShows i f a) irqHandler (fun _ => ClkcrShows i f a) :=
  (regRead_shows hb .sta).seq (fun sta => (regClr_shows hb (by decide) _).seq (fun _ => (handleEvent_shows hb sta).seq (fun _ =>
    regWrite_shows hb (by decide) _)))

end

/-! ### `wideBusOperationConfig` (43 R285) -/

section
variable {α : Type} {i : Sdmmc} {f : Word → α} {a : α} {cs : List Point}

theorem clkcrShows_steps (hf : Unreserved f) : Steps AnyStop (ClkcrShows i f a) .host hostFrame.between := by
  have he : EnvFree (ClkcrShows i f a) :=
    ⟨fun _ _ h => h, fun s m h => ⟨by simpa using h.1, ((envStep_applyEnv m s i).clkcr hf).trans h.2⟩⟩
  have hirq : Steps AnyStop (ClkcrShows i f a) .irq irqFrame.between := irqSteps_keep he (fun _ _ h => h)
  have henter : Spec AnyStop (ClkcrShows i f a) enterIrq (fun _ => ClkcrShows i f a) := Spec.update (fun _ h => h)
  have hleave : Spec AnyStop (ClkcrShows i f a) leaveIrq (fun _ => ClkcrShows i f a) := Spec.update (fun _ h => h)
  have hrun : ∀ j, Spec AnyStop (ClkcrShows i f a) (runHandler irqHandler j) (fun _ => ClkcrShows i f a) := fun j =>
    Spec.getState_seq (fun _ _ => Spec.ite (fun _ => henter.seq (fun _ => (irqHandler_shows hirq).seq (fun _ => hleave)))
      (fun _ => Spec.refuse (fun _ _ => trivial)))
  exact ⟨between_keeps he (fun j => Spec.getState_seq (fun _ _ => Spec.ite (fun _ => hrun j) (fun _ => Spec.pure (fun _ h => h)))), fun _ _ h => h⟩

/-- A controller that is bound stays bound. -/
abbrev Bound (i : Sdmmc) : State → Prop := ClkcrShows i (fun _ => ()) ()

/-- The write of the settle loop leaves the width it writes. -/
theorem regWrite_widbus (c : Word) (code : BitVec 2) {pt : Point} :
    Spec AnyStop (Bound i) (regWrite ⟨.host, hostFrame.between, cs⟩ pt .clkcr (withWidbus c code)) (fun _ => ClkcrShows i widbus code) := by
  refine ((clkcrShows_steps unreserved_nothing).step pt).seq (fun _ => Spec.getState_bind (fun s hs => ?_))
  rintro t rfl
  rw [boundRegister_some hs.1]
  refine ⟨by simpa using hs.1, ?_⟩
  rw [State.periph_setPeriph]
  exact widbus_withWidbus c code

/-- The settle loop ends with the width it writes (43 R290). -/
theorem settleLoop_switches (caller : WideCaller) (code : BitVec 2) (n : Nat) :
    Spec AnyStop (Bound i) (settleLoop ⟨.host, hostFrame.between, cs⟩ caller code n) (fun e t => e = .ok ∧ ClkcrShows i widbus code t) := by
  induction n with
  | zero => exact Spec.hold (fun _ _ => trivial)
  | succ n ih =>
    have hb := clkcrShows_steps (i := i) (a := ()) unreserved_nothing
    have hw := clkcrShows_steps (i := i) (a := code) unreserved_widbus
    refine hb.passed (fun _ => (regRead_shows hb .clkcr).seq (fun c => (regWrite_widbus c code).bind (fun _ => (regRead_shows hw .clkcr).seq (fun back => ?_))))
    exact Spec.ite (fun _ => hw.passed (fun _ => Spec.pure (fun _ h => ⟨rfl, h⟩))) (fun _ => ih.imp (fun _ h => h.bound) (fun _ _ h => h))

theorem settle_switches (caller : WideCaller) (code : BitVec 2) :
    Spec AnyStop (Bound i) (settle ⟨.host, hostFrame.between, cs⟩ caller code) (fun e t => e = .ok ∧ ClkcrShows i widbus code t) :=
  Spec.getState_seq (fun _ _ => settleLoop_switches caller code _)

section
variable (hf : Unreserved f)
include hf

/-! `findSCR` writes the data path's registers and `ICR` (43 R281). -/

theorem fifoLoop_shows (pts : ReadPoints) (limit : Nat) (at_ : List Word → Place) (n : Nat) (words : List Word) :
    Spec AnyStop (ClkcrShows i f a) (fifoLoop ⟨.host, hostFrame.between, cs⟩ pts limit at_ n words) (fun _ => ClkcrShows i f a) := by
  have hb := clkcrShows_steps (i := i) (a := a) hf
  induction n generalizing words with
  | zero => exact Spec.hold (fun _ _ => trivial)
  | succ n ih =>
    exact hb.passed (fun _ => (regRead_shows hb .sta).seq (fun _ => hb.passed (fun _ => Spec.ite (fun _ => hb.returned) (fun _ =>
      hb.passed (fun _ => Spec.ite (fun _ => (regRead_shows hb .fifo).seq (fun _ => ih _)) (fun _ => ih _))))))

theorem fifoDrain_shows (pts : ReadPoints) (n : Nat) (words : List Word) :
    Spec AnyStop (ClkcrShows i f a) (fifoDrain ⟨.host, hostFrame.between, cs⟩ pts n words) (fun _ => ClkcrShows i f a) := by
  have hb := clkcrShows_steps (i := i) (a := a) hf
  induction n generalizing words with
  | zero => exact hb.returned
  | succ n ih =>
    exact (regRead_shows hb .sta).seq (fun _ => Spec.ite (fun _ => Spec.pure (fun _ h => h)) (fun _ => (regRead_shows hb .fifo).seq (fun _ => ih _)))

theorem polledRead_shows (pts : ReadPoints) (limit : Nat) (at_ : List Word → Place) (words : List Word) :
    Spec AnyStop (ClkcrShows i f a) (polledRead ⟨.host, hostFrame.between, cs⟩ pts limit at_ words) (fun _ => ClkcrShows i f a) := by
  have hb := clkcrShows_steps (i := i) (a := a) hf
  have hdrain : ∀ e words, Spec AnyStop (ClkcrShows i f a) (drainAfter ⟨.host, hostFrame.between, cs⟩ pts e limit words) (fun _ => ClkcrShows i f a) :=
    fun _ _ => hb.passed (fun _ => Spec.ite (fun _ => fifoDrain_shows hf pts _ _) (fun _ => Spec.pure (fun _ h => h)))
  exact Spec.getState_seq (fun _ _ => (fifoLoop_shows hf pts limit at_ _ words).seq (fun _ => (hdrain _ _).seq (fun _ =>
    (regWrite_shows hb (by decide) _).seq (fun _ => hb.returned))))

omit hf in
theorem missingWords_shows (n : Nat) : Spec AnyStop (ClkcrShows i f a) (missingWords n) (fun _ => ClkcrShows i f a) := by
  induction n with
  | zero => exact Spec.pure (fun _ h => h)
  | succ n ih =>
    have hdraw : Spec AnyStop (ClkcrShows i f a) drawWord (fun _ => ClkcrShows i f a) := fun _ h => h
    exact hdraw.seq (fun _ => ih.seq (fun _ => Spec.pure (fun _ h => h)))

theorem scrFrom_shows (caller : ScrCaller) (words : List Word) :
    Spec AnyStop (ClkcrShows i f a) (scrFrom ⟨.host, hostFrame.between, cs⟩ caller words) (fun _ => ClkcrShows i f a) := by
  have hb := clkcrShows_steps (i := i) (a := a) hf
  have hpad : ∀ words, Spec AnyStop (ClkcrShows i f a) (padWords 2 words) (fun _ => ClkcrShows i f a) := fun _ =>
    (missingWords_shows _).seq (fun _ => Spec.pure (fun _ h => h))
  refine (polledRead_shows hf scrPoints 2 _ words).seq (fun x => Spec.ite (fun _ => (hpad _).seq (fun _ => ?_)) (fun _ => Spec.pure (fun _ h => h)))
  exact (sessionWrite_keeps hb (fun _ h => by exact h)).seq (fun _ => (sessionWrite_keeps hb (fun _ h => by exact h)).seq (fun _ => hb.returned))

omit hf in
theorem readRcaArg_shows : Spec AnyStop (ClkcrShows i f a) readRcaArg (fun _ => ClkcrShows i f a) := readRcaArg_keeps (fun _ _ _ => trivial)

theorem findSCR_shows (caller : ScrCaller) :
    Spec AnyStop (ClkcrShows i f a) (findSCR ⟨.host, hostFrame.between, cs⟩ caller) (fun _ => ClkcrShows i f a) := by
  have hb := clkcrShows_steps (i := i) (a := a) hf
  have harm : Spec AnyStop (ClkcrShows i f a) (armPolledRead ⟨.host, hostFrame.between, cs⟩ .findSCR 8 scrControl) (fun _ => ClkcrShows i f a) :=
    Spec.getState_seq (fun _ _ => (regWrite_shows hb (by decide) _).seq (fun _ => (regWrite_shows hb (by decide) _).seq (fun _ =>
      regWrite_shows hb (by decide) _)))
  exact Spec.thenOk (transmitCommand_shows hb 16 8 1) (readRcaArg_shows.seq (fun r => Spec.thenOk (transmitCommand_shows hb 55 r 1)
    (harm.seq (fun _ => Spec.thenOk (transmitCommand_shows hb 51 0 1) (hb.passed (fun _ => scrFrom_shows hf caller []))))))

end

/-- What `wideBusOperationConfig` leaves with each result: the width asked for, or what `f` reads of `CLKCR` as it was. -/
def WideEnd (i : Sdmmc) (code : BitVec 2) (f : Word → α) (a : α) (e : Err) (t : State) : Prop :=
  (e = .ok → ClkcrShows i widbus code t) ∧ (e ≠ .ok → ClkcrShows i f a t)

theorem wideEnd_failed {code : BitVec 2} {e : Err} (he : e ≠ .ok) : ∀ s, ClkcrShows i f a s → WideEnd i code f a e s :=
  fun _ h => ⟨fun hok => absurd hok he, fun _ => h⟩

theorem thenOk_wideEnd {op rest : Act Err} {code : BitVec 2} (h1 : Spec AnyStop (ClkcrShows i f a) op (fun _ => ClkcrShows i f a))
    (h2 : Spec AnyStop (ClkcrShows i f a) rest (WideEnd i code f a)) : Spec AnyStop (ClkcrShows i f a) (thenOk op rest) (WideEnd i code f a) :=
  h1.bind (fun _ => Spec.ite (fun _ => h2) (fun he => Spec.pure (wideEnd_failed he)))

theorem settle_wideEnd (caller : WideCaller) (code : BitVec 2) :
    Spec AnyStop (ClkcrShows i f a) (settle ⟨.host, hostFrame.between, cs⟩ caller code) (WideEnd i code f a) :=
  (settle_switches caller code).imp (fun _ h => h.bound) (fun _ _ h => ⟨fun _ => h.2, fun he => absurd h.1 he⟩)

theorem wideBusAfterScr_wideEnd (hf : Unreserved f) (caller : WideCaller) (w : BusWidth) :
    Spec AnyStop (ClkcrShows i f a) (wideBusAfterScr ⟨.host, hostFrame.between, cs⟩ caller w) (WideEnd i (widbusCode w) f a) := by
  have hb := clkcrShows_steps (i := i) (a := a) hf
  refine (readOr_keeps (fun _ _ _ => trivial)).seq (fun _ => hb.passed (fun _ => Spec.ite (fun _ => readRcaArg_shows.seq (fun r => ?_)) (fun _ => ?_)))
  · exact thenOk_wideEnd (transmitCommand_shows hb 55 r 1) (thenOk_wideEnd (transmitCommand_shows hb 6 _ 1)
      (hb.passed (fun _ => settle_wideEnd caller _)))
  · exact hb.passed (fun _ => Spec.pure (wideEnd_failed (by decide)))

theorem wideBus_wideEnd (hf : Unreserved f) (caller : WideCaller) (mode : BusMode) :
    Spec AnyStop (ClkcrShows i f a) (wideBusOperationConfig ⟨.host, hostFrame.between, cs⟩ caller mode)
      (WideEnd i (widbusCode (widthOfMode mode)) f a) := by
  have hb := clkcrShows_steps (i := i) (a := a) hf
  have hfail : ∀ e, e ≠ .ok → Spec AnyStop (ClkcrShows i f a) (pure e) (WideEnd i (widbusCode (widthOfMode mode)) f a) := fun e he =>
    Spec.pure (wideEnd_failed he)
  refine (readCardType_keeps (fun _ _ _ => trivial)).seq (fun _ => hb.passed (fun _ => Spec.ite (fun _ => hb.passed (fun _ => ?_))
    (fun _ => hb.passed (fun _ => hfail _ (by decide)))))
  refine Spec.ite (fun _ => hfail _ (by decide)) (fun _ => (regRead_shows hb .resp1).seq (fun _ => Spec.ite
    (fun _ => hb.passed (fun _ => hfail _ (by decide))) (fun _ => ?_)))
  exact thenOk_wideEnd (findSCR_shows hf _) (wideBusAfterScr_wideEnd hf caller _)

end

/-! ### The obligation -/

/-- The bits of `CLKCR` that are not reserved (10 R53). -/
abbrev clkcrBits (c : Word) : Word := c &&& 0x003FD3FF

theorem unreserved_clkcrBits : Unreserved clkcrBits := unreserved_and (by decide)

/-- What a call leaves in `CLKCR` by its result: the width of `code`, or the bits that are not reserved as they were. -/
def WidthByResult (i : Sdmmc) (code : BitVec 2) (bits : Word) (t : State) : Prop :=
  (t.result = .err .ok ∨ t.result = .bool true → widbus (t.periph i).clkcr = code) ∧
    (t.result ≠ .err .ok → t.result ≠ .bool true → clkcrBits (t.periph i).clkcr = bits)

section
variable {i : Sdmmc} {code : BitVec 2} {bits : Word} {s t : State} {op : Act Err}

/-- An operation that holds leaves `HOST` inside it: once it is idle the operation has returned. -/
theorem conclude_returned {β : Type} {I : State → Prop} {r : β → Result} {op : Act β} {Q : State → Prop}
    (h : Spec AnyStop I op (fun b t => Q (t.setReturn .idle (r b)))) (hs : I s) (ht : conclude r op s = .next t) (hidle : t.hostStep = .idle) : Q t :=
  conclude_spec (Q := fun t => t.hostStep = .idle → Q t) (h.post (fun _ _ hq _ => hq)) (fun _ _ _ hin => by cases hin) hs ht hidle

theorem returnWide_width (h : Spec AnyStop (ClkcrShows i clkcrBits bits) op (WideEnd i code clkcrBits bits)) {caller : WideCaller}
    (hs : ClkcrShows i clkcrBits bits s) (ht : returnWide caller op s = .next t) (hidle : t.hostStep = .idle) : WidthByResult i code bits t := by
  cases caller with
  | host =>
    refine conclude_returned (h.post (fun e u hu => ?_)) hs ht hidle
    exact ⟨fun hr => (hu.1 (by simpa using hr)).2, fun hr _ => (hu.2 (by simpa using hr)).2⟩
  | sdInit =>
    refine conclude_returned (h.bind (fun e => ?_)) hs ht hidle
    intro u hu
    exact ⟨fun hr => (hu.1 (by simpa using hr)).2, fun _ hr => (hu.2 (by simpa using hr)).2⟩

/-- So does a call of `wideBusOperationConfig`, whose result is its error. -/
theorem wideBus_width {mode : BusMode} (hi : s.session.bound = some i) (ht : exec (.wideBusOperationConfig mode) s = .next t)
    (hidle : t.hostStep = .idle) : (t.result = .err .ok → widbus (t.periph i).clkcr = widbusCode (widthOfMode mode)) ∧
      (t.result ≠ .err .ok → clkcrBits (t.periph i).clkcr = clkcrBits (s.periph i).clkcr) := by
  have hs : ClkcrShows i clkcrBits (clkcrBits (s.periph i).clkcr) (s.enter (.wideBusOperationConfig mode)) := ⟨hi, rfl⟩
  refine conclude_returned (Q := fun t => (t.result = .err .ok → widbus (t.periph i).clkcr = widbusCode (widthOfMode mode)) ∧
      (t.result ≠ .err .ok → clkcrBits (t.periph i).clkcr = clkcrBits (s.periph i).clkcr))
    ((wideBus_wideEnd unreserved_clkcrBits .host mode).post (fun e u hu => ?_)) hs ht hidle
  exact ⟨fun hr => (hu.1 (by simpa using hr)).2, fun hr => (hu.2 (by simpa using hr)).2⟩

/-- So does one that goes on from a hold in its `findSCR`. -/
theorem scrLoop_width {mode : BusMode} {caller : WideCaller} {words : List Word} {path : List Point} (hi : s.session.bound = some i)
    (hin : s.hostStep = .inside (.scrLoop (.wideBus mode caller) words) path) (ht : step s = .next t) (hidle : t.hostStep = .idle) :
    WidthByResult i (widbusCode (widthOfMode mode)) (clkcrBits (s.periph i).clkcr) t := by
  rw [step_hold hin (fun _ hcall => by cases hcall)] at ht
  exact returnWide_width (thenOk_wideEnd (scrFrom_shows unreserved_clkcrBits _ words) (wideBusAfterScr_wideEnd unreserved_clkcrBits caller _))
    ⟨hi, rfl⟩ ht hidle

/-- One that goes on from a hold in its settle loop returns with the width. -/
theorem settleLoop_width {caller : WideCaller} {path : List Point} (hi : s.session.bound = some i)
    (hin : s.hostStep = .inside (.settleLoop caller code) path) (ht : step s = .next t) (hidle : t.hostStep = .idle) :
    t.result = caller.succeeding ∧ widbus (t.periph i).clkcr = code := by
  rw [step_hold hin (fun _ hcall => by cases hcall)] at ht
  have hsettle := settle_switches (i := i) (cs := (Place.settleLoop caller code).callers) caller code
  have hs : Bound i s := ⟨hi, rfl⟩
  cases caller with
  | host =>
    refine conclude_returned (Q := fun t => t.result = .err .ok ∧ widbus (t.periph i).clkcr = code) (hsettle.post ?_) hs ht hidle
    rintro e u ⟨rfl, hu⟩
    exact ⟨rfl, hu.2⟩
  | sdInit =>
    refine conclude_returned (Q := fun t => t.result = .bool true ∧ widbus (t.periph i).clkcr = code) (hsettle.bind (fun e => ?_)) hs ht hidle
    rintro u ⟨rfl, hu⟩
    exact ⟨rfl, hu.2⟩

end

theorem widbusCode_widthOfMode (mode : BusMode) : widbusCode (widthOfMode mode) = if mode = .w1 then 0 else 1 := by cases mode <;> rfl

/-- Settles O45: no step writes `CLKCR` but the settle loop, which returns only after its write has left the width asked for. -/
theorem widthChangesOnlyOnSuccess : Obligations.WidthChangesOnlyOnSuccess := by
  unfold Obligations.WidthChangesOnlyOnSuccess
  intro s t i mode hi hidle
  rw [← widbusCode_widthOfMode]
  exact ⟨fun ht => wideBus_width hi ht hidle, fun caller words path hin ht => scrLoop_width hi hin ht hidle,
    fun caller code path hin ht => settleLoop_width hi hin ht hidle⟩

end Sys2Proof.Machine

/-! SUPPORT. SD_Init over its script: its stages in their order (41 R221 to R230), and how each of them fails. -/

namespace Sys2Proof.Machine

section
variable {s t : State} {i : Sdmmc} {rest : List (List Move)} {p q : Periph} {n : Session} {c : Bool} {cs : List Point} {e : Err} {d : Word}

/-! ### Admission, detection, the slow clock (41 R222, R223, R228) -/

@[simp] theorem State.left_pin : (s.left i rest p n c).pin = s.pin := by cases i <;> rfl

theorem sdIsDetected_present (hpin : s.cfg.detect = true → s.pin = s.cfg.detectLevel) : Runs (sdIsDetected (hostIn cs))
    (s.left i (quiet (if s.cfg.detect then 1 else 0) ++ rest) p n c) true (s.left i rest p n c) := by
  refine Runs.getState_bind (fun _ => ?_)
  rw [State.setHostStep_cfg, State.left_cfg]
  cases hd : s.cfg.detect with
  | false => exact Runs.returned
  | true =>
    have hlevel : Runs (detectPin (hostIn cs) ⟨.sdIsDetected, 1, 1⟩) (s.left i ([] :: rest) p n c) s.cfg.detectLevel (s.left i rest p n c) :=
      (step_left rfl).bind (Runs.getState_bind (fun _ => by rw [State.setHostStep_pin, State.left_pin, hpin hd]; exact Runs.pure))
    refine Runs.of_pos rfl (hlevel.bind ?_)
    rw [decide_eq_true rfl]
    exact Runs.pure

theorem sdIsDetected_absent (hd : s.cfg.detect = true) (hpin : s.pin ≠ s.cfg.detectLevel) :
    Runs (sdIsDetected (hostIn cs)) (s.left i ([] :: rest) p n c) false (s.left i rest p n c) := by
  refine Runs.getState_bind (fun _ => ?_)
  rw [State.setHostStep_cfg, State.left_cfg]
  have hlevel : Runs (detectPin (hostIn cs) ⟨.sdIsDetected, 1, 1⟩) (s.left i ([] :: rest) p n c) s.pin (s.left i rest p n c) :=
    (step_left rfl).bind (Runs.getState_bind (fun _ => by rw [State.setHostStep_pin, State.left_pin]; exact Runs.pure))
  refine Runs.of_pos hd (hlevel.bind ?_)
  rw [decide_eq_false hpin]
  exact Runs.pure

theorem divider_admitted (hd : d.toNat < 1024) : (!clockDividerInRange d) = false := by simp [clockDividerInRange, hd]

/-- `SD_Init` of a card that is there is its stages. -/
theorem sdInit_present (hd : d.toNat < 1024) (hrx : s.xfer.rxCplt = false) (htx : s.xfer.txCplt = false)
    (hpin : s.cfg.detect = true → s.pin = s.cfg.detectLevel) (h : Runs (sdInitStages (hostIn cs) d) (s.left i rest p n c) e t) :
    Runs (sdInit (hostIn cs) d) (s.left i (admissionScript ++ (quiet (if s.cfg.detect then 1 else 0) ++ rest)) p n c) (decide (e = .ok)) t :=
  Runs.refuseIf_bind (divider_admitted hd) ((refuseOutstanding_left hrx htx rfl rfl _ _).bind ((sdIsDetected_present hpin).bind
    (Runs.of_pos rfl (h.bind (sdInitResult_gives e)))))

theorem sdInit_absent (hd : d.toNat < 1024) (hrx : s.xfer.rxCplt = false) (htx : s.xfer.txCplt = false) (hdetect : s.cfg.detect = true)
    (hpin : s.pin ≠ s.cfg.detectLevel) : Runs (sdInit (hostIn cs) d) (s.left i (admissionScript ++ quiet 1 ++ rest) p n c) false (s.left i rest p n c) :=
  Runs.refuseIf_bind (divider_admitted hd) ((refuseOutstanding_left hrx htx rfl rfl _ _).bind ((sdIsDetected_absent hdetect hpin).bind
    (Runs.of_neg (by decide) Runs.returned)))

/-- The clock word of the identification (41 R222). -/
def slowWord (cfg : Params) : Word := cfg.initClkdiv.setWidth 32

/-- A controller after the slow clock and the polarity (41 R222). -/
def Periph.slowed (p : Periph) (cfg : Params) : Periph := (p.write .clkcr (slowWord cfg)).write .power (p.power ||| (1 <<< cfg.polarity))

theorem slowClock_left (hi : n.bound = some i) :
    Runs (slowClock (hostIn cs)) (s.left i (quiet 3 ++ rest) p n c) () (s.left i rest (p.slowed s.cfg) n c) := by
  refine Runs.getState_bind (fun _ => ?_)
  rw [State.setHostStep_cfg, State.left_cfg]
  exact (regWrite_left hi rfl _ _).bind (regSet_left hi (r := .power) (by decide) _ _ _)

/-! ### The stages in order (41 R221, R225) -/

theorem ifOk_runs {line : Nat} {op : Act Err} (h : Runs op s e t) : Runs (ifOk (hostIn cs) line .ok op) s e t := Runs.passed (Runs.of_pos rfl h)

theorem sdInitStages_unpowered {u : State} (hslow : Runs (slowClock (hostIn cs)) s () t)
    (h : Runs (powerOn (hostIn (cs ++ [⟨.sdInit, 4, 0⟩])) (.sdInit d)) t e u) (he : e ≠ .ok) : Runs (sdInitStages (hostIn cs) d) s e u :=
  hslow.bind (h.bind (sdInitAfterPower_skips he d))

/-- `initializeCard` fails. -/
theorem sdInitAfterPower_unidentified (h : Runs (initializeCard (hostIn (cs ++ [⟨.sdInit, 5, 1⟩]))) s e t) (he : e ≠ .ok) :
    Runs (sdInitAfterPower (hostIn cs) d .ok) s e t :=
  Runs.getState_bind (fun _ => (ifOk_runs h).bind ((ifOk_skips he).bind ((ifOk_skips he).bind ((ifOk_skips he).bind (ifOk_skips he)))))

/-- The card is identified, its registers are decoded, and it is not selected. -/
theorem sdInitAfterPower_unselected {u v : State} (hid : Runs (initializeCard (hostIn (cs ++ [⟨.sdInit, 5, 1⟩]))) s .ok t)
    (hinfo : Runs (sdGetCardInfo (hostIn (cs ++ [⟨.sdInit, 6, 1⟩]))) t .ok u) (h : Runs (selectCard (hostIn cs)) u e v) (he : e ≠ .ok) :
    Runs (sdInitAfterPower (hostIn cs) d .ok) s e v :=
  Runs.getState_bind (fun _ => (ifOk_runs hid).bind ((ifOk_runs hinfo).bind ((ifOk_runs h).bind ((ifOk_skips he).bind (ifOk_skips he)))))

/-- Every stage before the last gives `Ok`. -/
theorem sdInitAfterPower_selected {u v w x : State} (hid : Runs (initializeCard (hostIn (cs ++ [⟨.sdInit, 5, 1⟩]))) s .ok t)
    (hinfo : Runs (sdGetCardInfo (hostIn (cs ++ [⟨.sdInit, 6, 1⟩]))) t .ok u) (hselect : Runs (selectCard (hostIn cs)) u .ok v)
    (hclock : Runs (operatingClock (hostIn cs) d) v .ok w)
    (h : Runs (wideBusOperationConfig (hostIn (cs ++ [⟨.sdInit, 11, 1⟩])) .sdInit (modeOfWidth s.cfg.busWidth)) w e x) :
    Runs (sdInitAfterPower (hostIn cs) d .ok) s e x :=
  Runs.getState_bind (fun _ => (ifOk_runs hid).bind ((ifOk_runs hinfo).bind ((ifOk_runs hselect).bind ((ifOk_runs hclock).bind (ifOk_runs h)))))

/-! ### SD_GetCardInfo (41 R224, 42 R240) -/

/-- `S.CardInfo` after `SD_GetCardInfo` of a recognised class. -/
def CardInfo.decoded (x : CardInfo) (ct : CardType) (rca : BitVec 16) (cid csd : Reg128) (l : CsdLayout) : CardInfo :=
  { (x.withCopies ct rca).withCsd csd l with cid := some (cidFields cid) }

theorem sdGetCardInfo_left {ct : CardType} {rca : BitVec 16} {cid csd : Reg128} {l : CsdLayout} (hct : n.cardType = some ct) (hrca : n.rca = some rca)
    (hcsd : n.csd.value = some csd) (hcid : n.cid.value = some cid) (hl : layoutOf ct csd = some l) :
    Runs (sdGetCardInfo (hostIn cs)) (s.left i rest p n c) .ok
      (s.left i rest p { n with cardInfo := n.cardInfo.decoded ct rca cid csd l } c) := fun h => by
  refine ⟨(h.goto (cs ++ [⟨.sdGetCardInfo, 2, 0⟩])).goto (cs ++ [⟨.sdGetCardInfo, 5, 0⟩]), ?_⟩
  rw [sdGetCardInfo_copies (ct := ct) (rca := rca) (by simpa using hct) (by simpa using hrca),
    decodeRegisters_run (ct := ct) (csd := csd) (cid := cid) (by simpa using hct) (by simpa using hcsd) (by simpa using hcid) hl]
  cases i <;> rfl

/-! ### The select and the operating clock (41 R224, R226) -/

theorem selectCard_left {rca : BitVec 16} {selected : Word} (hi : n.bound = some i) (hrca : n.rca = some rca) (hst : decodeCardStatus selected = .ok) :
    Runs (selectCard (hostIn cs)) (s.left i (shortScript i 7 selected ++ rest) p n c) .ok
      (s.left i rest (p.answeredShort s.clearMask 7 (rcaArgument rca) 1 7 selected) n false) :=
  (Runs.readRcaArg (rca := rca) (by simpa using hrca)).bind (accepted_left hi (by decide) _ hst)

theorem selectCard_silent {rca : BitVec 16} (hi : n.bound = some i) (hrca : n.rca = some rca) :
    Runs (selectCard (hostIn cs)) (s.left i [] p n c) .timeout (s.left i [] (p.commanded s.clearMask 7 (rcaArgument rca) 1) n false) :=
  (Runs.readRcaArg (rca := rca) (by simpa using hrca)).bind (silent_left hi (by decide) _ (by decide))

/-- A controller with the clock divider `d` (41 R226). -/
def Periph.clocking (p : Periph) (d : Word) : Periph := p.write .clkcr (withClkdiv p.clkcr d)

theorem operatingClock_left (hi : n.bound = some i) (hp : p.widStale = false) :
    Runs (operatingClock (hostIn cs) d) (s.left i ([] :: [] :: rest) p n c) .ok (s.left i rest (p.clocking d) n c) := by
  have hvalue : p.value .clkcr = p.clkcr := by rw [Periph.value, hp, if_neg (by decide)]
  refine (regRead_left hi rfl (by decide)).bind ?_
  rw [hvalue]
  exact (regWrite_left hi rfl _ _).bind Runs.pure

/-! ### A silent CMD0 (41 R205) -/

theorem powerOn_silent (hi : n.bound = some i) (hd : s.delayRuns = false) (caller : PowerCaller) : Runs (powerOn (hostIn cs) caller) (s.left i [] p n c) .timeout
    (s.left i [] ((p.write .power (p.power ||| 3)).commanded s.clearMask 0 0 0)
      { n with powered := true, cardType := some .standardV1_1, capArg := some 0 } false) := by
  have hset : Runs (regSet (hostIn cs) .powerOn 1 .power 3) (s.left i [] p n c) () (s.left i [] (p.write .power (p.power ||| 3)) n c) :=
    (regRead_left hi rfl (by decide)).bind (regWrite_left hi rfl _ _)
  have hdelay : ∀ ms, Runs (delay (hostIn cs) ⟨.powerOn, 3, 1⟩ caller ms) (s.left i [] (p.write .power (p.power ||| 3)) { n with powered := true } c) ()
      (s.left i [] (p.write .power (p.power ||| 3)) { n with powered := true } c) := fun _ =>
    Runs.getState_bind (fun _ => (step_left rfl).bind (Runs.getState_bind (fun _ => Runs.of_neg (by simp [hd]) Runs.pure)))
  exact hset.bind ((sessionWrite_left _).bind (Runs.getState_bind (fun _ => (hdelay _).bind ((sessionWrite_left _).bind ((sessionWrite_left _).bind
    ((silent_left (by exact hi) (by decide) 0 (by decide)).thenOk_stop (by decide)))))))

end
end Sys2Proof.Machine

/-! SUPPORT. SD_Init of a card that answers: the session and the registers after each stage (41 R221 to R230). -/

namespace Sys2Proof.Machine

/-! ### What the stages leave of the registers -/

/-- `q` is `p` after commands: their registers differ, and no flag was set (40 R167). -/
structure AfterCommands (p q : Periph) : Prop where
  registers : CommandRegistersOnly p q
  flags : ∀ m, p.sta &&& m = 0 → q.sta &&& m = 0

section
variable {p q r : Periph} {command a : Word}

theorem AfterCommands.trans (h : AfterCommands p q) (h' : AfterCommands q r) : AfterCommands p r :=
  ⟨h.registers.trans h'.registers, fun m hm => h'.flags m (h.flags m hm)⟩

theorem CommandSent.afterCommands (h : CommandSent command a p q) : AfterCommands p q := ⟨h.registers, h.flags⟩

theorem afterCommands_tried (clear status capArg : Word) (p : Periph) (ocr : Word) : AfterCommands p (p.tried clear status capArg ocr) :=
  (commandSent_answeredShort p clear (by decide) 0 1 55 status).afterCommands.trans
    (commandSent_answeredShort _ clear (by decide) _ 3 63 ocr).afterCommands

theorem afterCommands_trials (clear status capArg : Word) (ocrs : List Word) (p : Periph) :
    AfterCommands p (ocrs.foldl (Periph.tried clear status capArg) p) := by
  induction ocrs generalizing p with
  | nil => exact ⟨.refl p, fun _ h => h⟩
  | cons ocr ocrs ih => exact (afterCommands_tried clear status capArg p ocr).trans (ih _)

theorem afterCommands_powerOn (clear status : Word) (answers : Bool) (ocrs : List Word) (p : Periph) :
    AfterCommands { p with power := p.power ||| 3 } (p.trials clear status answers ocrs) := by
  have hsent := (commandSent_commanded (p.write .power (p.power ||| 3)) clear (c := 0) (by decide) 0 0).ended.afterCommands
  exact ((hsent.trans (commandSent_answeredShort _ clear (by decide) checkPattern 3 63 checkPattern).afterCommands).trans
    (commandSent_answeredShort _ clear (by decide) 0 1 55 status).afterCommands).trans (afterCommands_trials clear status _ ocrs _)

theorem afterCommands_identified (clear : Word) (cid csd : Reg128) (r6 : Word) (p : Periph) : AfterCommands p (p.identified clear cid csd r6) :=
  ((commandSent_answeredLong p clear (by decide) 0 2 cid).afterCommands.trans
    (commandSent_answeredShort _ clear (by decide) 0 6 3 r6).afterCommands).trans (commandSent_answeredLong _ clear (by decide) _ 2 csd).afterCommands

/-- `q` is `p` in `SD_Init` with the clock word `clock`: the card powered, the polarity set, commands issued (41 R222, R204). -/
structure InitClocked (cfg : Params) (clock : Word) (p q : Periph) : Prop where
  registers : CommandRegistersOnly { p with clkcr := clock, power := p.power ||| (1 <<< cfg.polarity) ||| 3, widPrev := q.widPrev } q
  flags : ∀ m, p.sta &&& m = 0 → q.sta &&& m = 0

variable {cfg : Params} {clock : Word}

theorem InitClocked.commands (h : InitClocked cfg clock p q) (h' : AfterCommands q r) : InitClocked cfg clock p r where
  registers := by
    have hprev : r.widPrev = q.widPrev := (congrArg Periph.widPrev h'.registers :)
    rw [hprev]
    exact h.registers.trans h'.registers
  flags m hm := h'.flags m (h.flags m hm)

theorem initClocked_powered (h : AfterCommands { p.slowed cfg with power := (p.slowed cfg).power ||| 3 } q) : InitClocked cfg (slowWord cfg) p q where
  registers := by
    have hprev : q.widPrev = (p.slowed cfg).widPrev := (congrArg Periph.widPrev h.registers :)
    rw [hprev]
    exact h.registers
  flags := h.flags

theorem InitClocked.clocking {d : Word} (h : InitClocked cfg clock p q) : InitClocked cfg (withClkdiv clock d) p (q.clocking d) where
  registers := by
    have hclock : q.clkcr = clock := (congrArg Periph.clkcr h.registers :)
    rw [← hclock]
    unfold CommandRegistersOnly
    exact congrArg (fun x => { x with clkcr := withClkdiv q.clkcr d, widPrev := (q.clocking d).widPrev }) h.registers
  flags := h.flags

theorem InitClocked.clkcr (h : InitClocked cfg clock p q) : q.clkcr = clock := (congrArg Periph.clkcr h.registers :)
theorem InitClocked.widStale (h : InitClocked cfg clock p q) : q.widStale = p.widStale := (congrArg Periph.widStale h.registers :)
theorem InitClocked.power (h : InitClocked cfg clock p q) : q.power = p.power ||| (1 <<< cfg.polarity) ||| 3 := (congrArg Periph.power h.registers :)

theorem InitClocked.powered (h : InitClocked cfg clock p q) : q.power.extractLsb' 0 2 ≠ 0 := by
  have hon : (3 : Word).extractLsb' 0 2 = BitVec.allOnes 2 := by decide
  rw [h.power, BitVec.extractLsb'_or, hon, BitVec.or_allOnes]
  decide

theorem InitClocked.readyToPoll (h : InitClocked cfg clock p q) (hp : p.readyToPoll) : q.readyToPoll := by
  obtain ⟨hfifo, hend, hidma⟩ := hp
  have hfifo' : q.fifo = p.fifo := (congrArg Periph.fifo h.registers :)
  have hidma' : q.idmaen = p.idmaen := (congrArg Periph.idmaen h.registers :)
  exact ⟨hfifo'.trans hfifo, h.flags _ hend, hidma'.trans hidma⟩

/-- The divider replaces the slow one (41 R226). -/
theorem withClkdiv_slowWord {d : Word} : withClkdiv (slowWord cfg) d = d := by
  have hmask : ∀ x : BitVec 10, x.setWidth 32 &&& ~~~(0x3FF : Word) = 0 := by decide
  rw [withClkdiv, slowWord, hmask]
  exact BitVec.zero_or

end

/-! ### The card's answers -/

/-- What a card answers during `SD_Init`: the status of its type 1 commands, the operating conditions while busy and once ready, its identification, its
specific data and its relative address. -/
structure InitAnswers where
  status : Word
  busy : List Word
  ocr : Word
  cid : Reg128
  csd : Reg128
  r6 : Word

namespace InitAnswers

variable (x : InitAnswers)

def powerOnScript (i : Sdmmc) : List (List Move) := Machine.powerOnScript i x.status true (x.busy ++ [x.ocr])
def identifyScript (i : Sdmmc) : List (List Move) := Machine.identifyScript i x.cid x.csd x.r6

/-- The class that the OCR of an answered CMD8 gives (41 R209). -/
def cardType : CardType := if x.ocr.getLsbD 30 then .highCapacity else .standardV2_0

def rca : BitVec 16 := x.r6.extractLsb' 16 16

/-- The layout of the CSD (42 R241). -/
def layout : CsdLayout := if x.ocr.getLsbD 30 then .v2 (csdV2 x.csd.received) else .v1 (csdV1 x.csd.received)

/-- The session after `powerOn`. -/
def negotiated (n : Session) : Session := { n with powered := true, capArg := some 0x40000000, cardType := some x.cardType }

/-- The session after `initializeCard`. -/
def captured (n : Session) : Session :=
  { x.negotiated n with cid := .written x.cid.received, csd := .written x.csd.received, rca := some x.rca }

def info (n : Session) : CardInfo := n.cardInfo.decoded x.cardType x.rca x.cid.received x.csd.received x.layout

/-- The session after `SD_GetCardInfo`. -/
def identified (n : Session) : Session := { x.captured n with cardInfo := x.info n }

/-- The controller after each stage that gives `Ok`. -/
def powered (cfg : Params) (clear : Word) (p : Periph) : Periph := (p.slowed cfg).trials clear x.status true (x.busy ++ [x.ocr])
def addressed (cfg : Params) (clear : Word) (p : Periph) : Periph := (x.powered cfg clear p).identified clear x.cid x.csd x.r6
def selected (cfg : Params) (clear : Word) (p : Periph) (status : Word) : Periph :=
  (x.addressed cfg clear p).answeredShort clear 7 (rcaArgument x.rca) 1 7 status

theorem layoutOf_layout : layoutOf x.cardType x.csd.received = some x.layout := by
  unfold cardType layout
  cases x.ocr.getLsbD 30 <;> rfl

theorem cardType_family : x.cardType = .standardV1_1 ∨ x.cardType = .standardV2_0 ∨ x.cardType = .highCapacity := by
  unfold cardType
  cases x.ocr.getLsbD 30
  · exact .inr (.inl rfl)
  · exact .inr (.inr rfl)

theorem negotiated_eq (n : Session) : n.negotiated true x.ocr = x.negotiated n := by
  unfold Session.negotiated negotiated cardType
  cases x.ocr.getLsbD 30 <;> rfl

theorem initClocked_powered (cfg : Params) (clear : Word) (p : Periph) : InitClocked cfg (slowWord cfg) p (x.powered cfg clear p) :=
  Machine.initClocked_powered (afterCommands_powerOn clear x.status true _ _)

theorem initClocked_addressed (cfg : Params) (clear : Word) (p : Periph) : InitClocked cfg (slowWord cfg) p (x.addressed cfg clear p) :=
  (x.initClocked_powered cfg clear p).commands (afterCommands_identified ..)

theorem initClocked_selected (cfg : Params) (clear : Word) (p : Periph) (status : Word) :
    InitClocked cfg (slowWord cfg) p (x.selected cfg clear p status) :=
  (x.initClocked_addressed cfg clear p).commands (commandSent_answeredShort _ clear (by decide) _ 1 7 status).afterCommands

end InitAnswers

/-! ### The stages -/

/-- `SD_Init` may start, and the card becomes ready and takes an address. -/
structure InitReady (s : State) (i : Sdmmc) (d : Word) (x : InitAnswers) : Prop where
  divider : d.toNat < 1024
  bound : s.session.bound = some i
  rx : s.xfer.rxCplt = false
  tx : s.xfer.txCplt = false
  present : s.cfg.detect = true → s.pin = s.cfg.detectLevel
  fresh : (s.periph i).widStale = false
  delay : s.delayRuns = false
  status : decodeCardStatus x.status = .ok
  busy : ∀ o ∈ x.busy, o.getLsbD 31 = false
  ready : x.ocr.getLsbD 31 = true
  trials : x.busy.length + 1 < s.cfg.maxVoltTrial
  latched : x.r6 &&& 0xE000 = 0

section
variable {s t : State} {i : Sdmmc} {d : Word} {x : InitAnswers} {rest : List (List Move)} {cs : List Point} {e : Err} {selected : Word}

theorem InitReady.powers (h : InitReady s i d x)
    (hnext : Runs (sdInitAfterPower (hostIn cs) d .ok) (s.left i rest (x.powered s.cfg s.clearMask (s.periph i)) (x.negotiated s.session) false) e t) :
    Runs (sdInitStages (hostIn cs) d) (s.left i (quiet 3 ++ (x.powerOnScript i ++ rest)) (s.periph i) s.session s.appCmd) e t := by
  rw [← x.negotiated_eq] at hnext
  exact (slowClock_left h.bound).bind ((powerOn_ready h.bound h.delay h.status h.busy h.ready h.trials).bind hnext)

theorem InitReady.identifies (h : InitReady s i d x) : Runs (initializeCard (hostIn cs))
    (s.left i (x.identifyScript i ++ rest) (x.powered s.cfg s.clearMask (s.periph i)) (x.negotiated s.session) false) .ok
    (s.left i rest (x.addressed s.cfg s.clearMask (s.periph i)) (x.captured s.session) false) :=
  initializeCard_identifies (n := x.negotiated s.session) (t0 := x.cardType) h.bound (x.initClocked_powered s.cfg s.clearMask (s.periph i)).powered rfl
    (sdFamily_of (x.cardType_family.imp_right (Or.imp_right .inl))) h.latched

theorem InitAnswers.describes (x : InitAnswers) : Runs (sdGetCardInfo (hostIn cs))
    (s.left i rest (x.addressed s.cfg s.clearMask (s.periph i)) (x.captured s.session) false) .ok
    (s.left i rest (x.addressed s.cfg s.clearMask (s.periph i)) (x.identified s.session) false) :=
  sdGetCardInfo_left (ct := x.cardType) (rca := x.rca) (csd := x.csd.received) (cid := x.cid.received) rfl rfl rfl rfl x.layoutOf_layout

/-- From the slow clock to the bus width. -/
theorem InitReady.selects (h : InitReady s i d x) (hst : decodeCardStatus selected = .ok)
    (hnext : Runs (wideBusOperationConfig (hostIn (cs ++ [⟨.sdInit, 11, 1⟩])) .sdInit (modeOfWidth s.cfg.busWidth))
      (s.left i rest ((x.selected s.cfg s.clearMask (s.periph i) selected).clocking d) (x.identified s.session) false) e t) :
    Runs (sdInitStages (hostIn cs) d) (s.left i (quiet 3 ++ (x.powerOnScript i ++ (x.identifyScript i ++ (shortScript i 7 selected ++ [] :: [] :: rest))))
      (s.periph i) s.session s.appCmd) e t := by
  have hfresh : (x.selected s.cfg s.clearMask (s.periph i) selected).widStale = false := (x.initClocked_selected ..).widStale.trans h.fresh
  refine h.powers (sdInitAfterPower_selected h.identifies x.describes (selectCard_left (rca := x.rca) (by exact h.bound) rfl hst)
    (operatingClock_left (by exact h.bound) hfresh) ?_)
  rw [State.left_cfg]
  exact hnext

end

end Sys2Proof.Machine

/-! SUPPORT. How SD_Init ends early, and what its stages leave (41 R223, R225, R228). -/

namespace Sys2Proof.Machine

theorem InitAnswers.info_cardType (x : InitAnswers) (n : Session) : (x.info n).cardType = some x.cardType := by
  unfold InitAnswers.info
  cases x.layout <;> rfl

theorem InitAnswers.info_rca (x : InitAnswers) (n : Session) : (x.info n).rca = some x.rca := by
  unfold InitAnswers.info
  cases x.layout <;> rfl

theorem modeOfWidth_ne_w8 (w : BusWidth) : modeOfWidth w ≠ .w8 := by cases w <;> decide

/-! ### Where SD_Init stops -/

/-- `SD_Init` returns false with the session `n`, the clock word `clock`, `command` the last it issued, and no slot of the schedule left. -/
def InitStopped (s : State) (i : Sdmmc) (d clock command : Word) (n : Session) : Prop :=
  ∃ t, exec (.sdInit d) s = .next t ∧ ControllerOnly i [] (.bool false) s t ∧ t.session = n ∧
    CommandRegistersOnly { s.periph i with
      clkcr := clock, power := (s.periph i).power ||| (1 <<< s.cfg.polarity) ||| 3, widPrev := (t.periph i).widPrev } (t.periph i) ∧
    (t.periph i).cmdr.extractLsb' 0 6 = command.extractLsb' 0 6

section
variable {s : State} {i : Sdmmc} {d clock command : Word} {x : InitAnswers} {q : Periph} {n : Session} {e : Err} {script : List (List Move)}

/-- The part of the script before the slow clock. -/
def initLead (s : State) : List (List Move) := admissionScript ++ quiet (if s.cfg.detect then 1 else 0)

theorem InitReady.stopped (h : InitReady s i d x) (hs : s.sched = initLead s ++ script)
    (hrun : Runs (sdInitStages hostFrame d) (s.left i script (s.periph i) s.session s.appCmd) e (s.left i [] q n false)) (he : e ≠ .ok)
    (hq : InitClocked s.cfg clock (s.periph i) q) (hc : q.cmdr.extractLsb' 0 6 = command.extractLsb' 0 6) : InitStopped s i d clock command n := by
  have hinit := sdInit_present (d := d) (cs := []) h.divider h.rx h.tx h.present hrun
  rw [decide_eq_false he] at hinit
  obtain ⟨t, hexec, honly, hsession, hperiph⟩ := Runs.returns (hs.trans (List.append_assoc ..)) hinit (.sdInit d) .bool
  exact ⟨t, hexec, honly, hsession, hperiph ▸ hq.registers, hperiph ▸ hc⟩

/-- CMD0 is not answered. -/
theorem InitReady.stops_unpowered (h : InitReady s i d x) (hs : s.sched = initLead s ++ quiet 3) :
    InitStopped s i d (slowWord s.cfg) 0 { s.session with powered := true, capArg := some 0, cardType := some .standardV1_1 } := by
  have hsent := commandSent_commanded (((s.periph i).slowed s.cfg).write .power (((s.periph i).slowed s.cfg).power ||| 3)) s.clearMask (c := 0)
    (by decide) 0 0
  exact h.stopped hs (sdInitStages_unpowered (slowClock_left (rest := []) h.bound) (powerOn_silent h.bound h.delay _) (by decide)) (by decide)
    (initClocked_powered hsent.afterCommands) hsent.index

/-- CMD2 is not answered. -/
theorem InitReady.stops_unidentified (h : InitReady s i d x) (hs : s.sched = initLead s ++ (quiet 3 ++ x.powerOnScript i)) :
    InitStopped s i d (slowWord s.cfg) 2 (x.negotiated s.session) := by
  have hsent := commandSent_commanded (x.powered s.cfg s.clearMask (s.periph i)) s.clearMask (c := 2) (by decide) 0 2
  have hclocked := x.initClocked_powered s.cfg s.clearMask (s.periph i)
  rw [← List.append_nil (x.powerOnScript i)] at hs
  exact h.stopped hs (h.powers (sdInitAfterPower_unidentified (initializeCard_cmd2 (n := x.negotiated s.session) h.bound hclocked.powered rfl (by decide)
    (silent_left (by exact h.bound) (by decide) 0 (by decide))) (by decide))) (by decide) (hclocked.commands hsent.afterCommands) hsent.index

/-- The select is not answered. -/
theorem InitReady.stops_unselected (h : InitReady s i d x) (hs : s.sched = initLead s ++ (quiet 3 ++ (x.powerOnScript i ++ x.identifyScript i))) :
    InitStopped s i d (slowWord s.cfg) 7 (x.identified s.session) := by
  have hsent := commandSent_commanded (x.addressed s.cfg s.clearMask (s.periph i)) s.clearMask (c := 7) (by decide) (rcaArgument x.rca) 1
  rw [← List.append_nil (x.identifyScript i)] at hs
  exact h.stopped hs (h.powers (sdInitAfterPower_unselected h.identifies x.describes (selectCard_silent (rca := x.rca) (by exact h.bound) rfl)
    (by decide))) (by decide) ((x.initClocked_addressed ..).commands hsent.afterCommands) hsent.index

/-- The card is locked. -/
theorem InitReady.stops_locked {locked : Word} (h : InitReady s i d x) (hst : decodeCardStatus locked = .ok) (hl : locked.getLsbD 25 = true)
    (hs : s.sched = initLead s ++ (quiet 3 ++ (x.powerOnScript i ++ (x.identifyScript i ++ (shortScript i 7 locked ++ [] :: [] :: [[]]))))) :
    InitStopped s i d d 7 (x.identified s.session) := by
  have hsent := commandSent_answeredShort (x.addressed s.cfg s.clearMask (s.periph i)) s.clearMask (c := 7) (by decide) (rcaArgument x.rca) 1 7 locked
  have hclocked := (x.initClocked_selected s.cfg s.clearMask (s.periph i) locked).clocking (d := d)
  rw [withClkdiv_slowWord] at hclocked
  exact h.stopped hs (h.selects hst (wideBus_locked (n := x.identified s.session) h.bound rfl x.cardType_family (modeOfWidth_ne_w8 _) hl)) (by decide)
    hclocked hsent.index

end

/-! ### The obligation -/

theorem sdInit_refused {s : State} {d : Word} (hd : d.toNat < 1024) (hn : NoInterrupt s) (h : s.xfer.rxCplt = true ∨ s.xfer.txCplt = true) :
    exec (.sdInit d) s = .refused .transferOutstanding := by
  have hstops : StopsWith (.refused .transferOutstanding) (Undisturbed s) (sdInit hostFrame d) :=
    Spec.refuseIf_seq (fun hc => by rw [divider_admitted hd] at hc; exact Bool.noConfusion hc) (fun _ => (refuseOutstanding_refuses h _ _).bind _)
  exact hstops.exec_refused (undisturbed_enter hn _)

/-- Settles O31: the first stage that fails gives the result, and those after it are passed by. -/
theorem initStopsAtAFailingStage : Obligations.InitStopsAtAFailingStage := by
  unfold Obligations.InitStopsAtAFailingStage
  intro s d rest hd
  refine ⟨sdInit_refused hd, fun hrx htx hdetect hpin hs => ?_, fun i status busy ocr cid csd r6 locked hi hrx htx hpresent hfresh hdelay hst hbusy hocr
    hlen hr6 hlocked hbit => ?_⟩
  · exact (Runs.start .sdmmc1 hs (sdInit_absent hd hrx htx hdetect hpin)).finish.trans rfl
  · have h : InitReady s i d ⟨status, busy, ocr, cid, csd, r6⟩ := ⟨hd, hi, hrx, htx, hpresent, hfresh, hdelay, hst, hbusy, hocr, hlen, hr6⟩
    intro lead powered negotiated slow stopsAt
    have hstops : ∀ clock command n, InitStopped s i d clock command n → stopsAt clock command n := fun _ _ _ hstop => hstop
    refine ⟨fun hs => hstops _ _ _ (h.stops_unpowered hs), fun hs => hstops _ _ _ (h.stops_unidentified (hs.trans ?_)), InitAnswers.info ⟨status, busy, ocr, cid, csd, r6⟩ s.session,
      InitAnswers.info_cardType ⟨status, busy, ocr, cid, csd, r6⟩ _, InitAnswers.info_rca ⟨status, busy, ocr, cid, csd, r6⟩ _, ?_⟩
    · simp only [powered, lead, initLead, InitAnswers.powerOnScript, List.append_assoc]
    intro identified
    refine ⟨fun hs => hstops _ _ _ (h.stops_unselected (hs.trans ?_)), fun hs => hstops _ _ _ (h.stops_locked hlocked hbit (hs.trans ?_))⟩
    · simp only [powered, lead, initLead, InitAnswers.powerOnScript, InitAnswers.identifyScript, List.append_assoc]
    · simp only [powered, lead, initLead, InitAnswers.powerOnScript, InitAnswers.identifyScript, List.append_assoc]
      rfl

end Sys2Proof.Machine

/-! SUPPORT. A whole SD_Init: the final session, clock and width (41 R221 to R230, 42 R240, 43 R285). -/

namespace Sys2Proof.Machine

/-! ### The sizes of the card (42 R246) -/

/-- Bit 0 of the CSD, which no field holds, is all that `RESP4` does not show (10 R36). -/
theorem bitsOf_received (x : Reg128) (hi : Nat) {lo : Nat} (hlo : 0 < lo) : bitsOf x.received hi lo = bitsOf x hi lo := by
  have hlow : (x.w3 &&& ~~~1).toNat / 2 = x.w3.toNat / 2 := by
    have hshift : (x.w3 &&& ~~~1) >>> 1 = x.w3 >>> 1 := by
      have hmask : (~~~1 : Word) >>> 1 = (BitVec.allOnes 32) >>> 1 := by decide
      rw [BitVec.ushiftRight_and_distrib, hmask, ← BitVec.ushiftRight_and_distrib, BitVec.and_allOnes]
    simpa [BitVec.toNat_ushiftRight, Nat.shiftRight_eq_div_pow] using congrArg BitVec.toNat hshift
  obtain ⟨k, rfl⟩ : ∃ k, lo = k + 1 := ⟨lo - 1, by omega⟩
  have hhalf : ∀ a b c w w' : Nat, w / 2 = w' / 2 →
      (a * 2 ^ 96 + b * 2 ^ 64 + c * 2 ^ 32 + w) / 2 = (a * 2 ^ 96 + b * 2 ^ 64 + c * 2 ^ 32 + w') / 2 := by omega
  rw [bitsOf, bitsOf, Nat.pow_succ' (m := 2) (n := k), ← Nat.div_div_eq_div_mul, ← Nat.div_div_eq_div_mul]
  exact congrArg (fun v => v / 2 ^ k % 2 ^ (hi - (k + 1) + 1)) (hhalf _ _ _ _ _ hlow)

namespace InitAnswers

variable (x : InitAnswers) (n : Session)

theorem info_cardCapacity : (x.info n).cardCapacity = some (if x.ocr.getLsbD 30 then (bitsOf x.csd 69 48 + 1) * 524288
    else (bitsOf x.csd 73 62 + 1) * 2 ^ (bitsOf x.csd 49 47 + 2) * 2 ^ bitsOf x.csd 83 80) := by
  have hcapacity : (x.info n).cardCapacity = some (capacityOf (csdCommon x.csd.received) x.layout) := by
    unfold info
    cases x.layout <;> rfl
  rw [hcapacity, layout]
  cases x.ocr.getLsbD 30 with
  | false =>
    rw [if_neg (by decide), if_neg (by decide), capacityOf_v1, bitsOf_received _ _ (by decide), bitsOf_received _ _ (by decide), bitsOf_received _ _ (by decide)]
  | true => rw [if_pos rfl, if_pos rfl, capacityOf_v2, bitsOf_received _ _ (by decide)]

theorem info_cardBlockSize : (x.info n).cardBlockSize = some (if x.ocr.getLsbD 30 then 512 else 2 ^ bitsOf x.csd 83 80) := by
  have hsize : (x.info n).cardBlockSize = some (blockSizeOf (csdCommon x.csd.received) x.layout) := by
    unfold info
    cases x.layout <;> rfl
  rw [hsize, layout]
  cases x.ocr.getLsbD 30 with
  | false => rw [if_neg (by decide), if_neg (by decide), blockSizeOf_v1, bitsOf_received _ _ (by decide)]
  | true => rfl

end InitAnswers

/-! ### The width in `CLKCR` -/

/-- A divider leaves the width code clear, so the width switched to is all that is added. -/
theorem withWidbus_divider {d : Word} (hd : d.toNat < 1024) (w : BusWidth) :
    withWidbus d (widbusCode w) = (match w with | .w1 => d | .w4 => d ||| 0x4000) := by
  have hclear : d &&& ~~~(0x0000C000 : Word) = d := by
    have hlow : d = (d.setWidth 10).setWidth 32 := by
      apply BitVec.eq_of_toNat_eq
      simp only [BitVec.toNat_setWidth]
      omega
    have hbits : ∀ v : BitVec 10, v.setWidth 32 &&& ~~~(0x0000C000 : Word) = v.setWidth 32 := by decide
    rw [hlow, hbits]
  rw [withWidbus, hclear]
  cases w with
  | w1 => exact BitVec.or_zero
  | w4 => rfl

/-! ### The whole call -/

section
variable {s : State} {i : Sdmmc} {d selected w0 w1 : Word} {x : InitAnswers} {rest : List (List Move)}

/-- The controller at the end of `SD_Init`. -/
def InitAnswers.switched (x : InitAnswers) (s : State) (i : Sdmmc) (d selected : Word) : Periph :=
  (((x.selected s.cfg s.clearMask (s.periph i) selected).clocking d).widthNegotiated s.clearMask x.status s.cfg.dtimer x.rca s.cfg.busWidth).switched
    (widbusCode s.cfg.busWidth)

/-- `wideBusOperationConfig`, the last stage. -/
theorem InitReady.widens (h : InitReady s i d x) (hp : (s.periph i).readyToPoll) (hl : selected.getLsbD 25 = false)
    (hw : widthSupported ⟨bswap w0, bswap w1⟩ s.cfg.busWidth = true) {cs : List Point} :
    Runs (wideBusOperationConfig (hostIn cs) .sdInit (modeOfWidth s.cfg.busWidth))
      (s.left i ([] :: (scrScript i x.status w0 w1 ++ (shortScript i 55 x.status ++ (shortScript i 6 x.status ++ (quiet 3 ++ rest)))))
        ((x.selected s.cfg s.clearMask (s.periph i) selected).clocking d) (x.identified s.session) false) .ok
      (s.left i rest (x.switched s i d selected) { x.identified s.session with scr := .written ⟨bswap w0, bswap w1⟩ } false) := by
  have hclocked := (x.initClocked_selected s.cfg s.clearMask (s.periph i) selected).clocking (d := d)
  refine wideBus_settles (n := x.identified s.session) h.bound rfl x.cardType_family hl rfl h.status (hclocked.readyToPoll hp) hw
    (settle_now (by exact h.bound) ?_)
  exact (congrArg Periph.widStale (widthNegotiated_registers ..) :).trans (hclocked.widStale.trans h.fresh)

theorem InitReady.succeeds (h : InitReady s i d x) (hp : (s.periph i).readyToPoll) (hst : decodeCardStatus selected = .ok) (hl : selected.getLsbD 25 = false)
    (hw : widthSupported ⟨bswap w0, bswap w1⟩ s.cfg.busWidth = true)
    (hs : s.sched = initScript i s.cfg.detect x.status (x.busy ++ [x.ocr]) x.cid x.csd x.r6 selected w0 w1 ++ rest) :
    ∃ t, exec (.sdInit d) s = .next t ∧ ControllerOnly i rest (.bool true) s t ∧
      t.session = { x.identified s.session with scr := .written ⟨bswap w0, bswap w1⟩ } ∧ t.periph i = x.switched s i d selected := by
  have hscript : s.sched = admissionScript ++ (quiet (if s.cfg.detect then 1 else 0) ++ (quiet 3 ++ (x.powerOnScript i ++ (x.identifyScript i ++
      (shortScript i 7 selected ++ [] :: [] :: [] :: (scrScript i x.status w0 w1 ++ (shortScript i 55 x.status ++ (shortScript i 6 x.status ++
        (quiet 3 ++ rest))))))))) := by
    rw [hs, initScript, wideScript, InitAnswers.powerOnScript, InitAnswers.identifyScript]
    simp only [List.append_assoc]
    rfl
  exact Runs.returns hscript (sdInit_present (cs := []) h.divider h.rx h.tx h.present (h.selects hst (h.widens hp hl hw))) (.sdInit d) .bool

/-- What the final registers hold. -/
theorem InitAnswers.switched_registers (x : InitAnswers) :
    (x.switched s i d selected).clkcr = withWidbus d (widbusCode s.cfg.busWidth) ∧
      (x.switched s i d selected).power = (s.periph i).power ||| (1 <<< s.cfg.polarity) ||| 3 ∧ (x.switched s i d selected).fifo = [] := by
  have hclocked := (x.initClocked_selected s.cfg s.clearMask (s.periph i) selected).clocking (d := d)
  rw [withClkdiv_slowWord] at hclocked
  have hwidth := widthNegotiated_registers ((x.selected s.cfg s.clearMask (s.periph i) selected).clocking d) s.clearMask x.status s.cfg.dtimer x.rca
    s.cfg.busWidth
  refine ⟨?_, (congrArg Periph.power hwidth :).trans hclocked.power, (congrArg Periph.fifo hwidth :)⟩
  exact congrArg (withWidbus · (widbusCode s.cfg.busWidth)) ((congrArg Periph.clkcr hwidth :).trans hclocked.clkcr)

end

/-- Settles O36: each stage gives `Ok`, and the registers and the session are those it left. -/
theorem initSucceeds : Obligations.InitSucceeds := by
  unfold Obligations.InitSucceeds
  intro s i d status busy ocr cid csd r6 selected w0 w1 rest hd hi hrx htx hpresent hp hfresh hdelay hst hbusy hocr hlen hr6 hselected hl hw hs
  have h : InitReady s i d ⟨status, busy, ocr, cid, csd, r6⟩ := ⟨hd, hi, hrx, htx, hpresent, hfresh, hdelay, hst, hbusy, hocr, hlen, hr6⟩
  obtain ⟨t, hexec, honly, hsession, hperiph⟩ := h.succeeds hp hselected hl hw hs
  obtain ⟨hclock, hpower, hfifo⟩ := InitAnswers.switched_registers (s := s) (i := i) (d := d) (selected := selected) ⟨status, busy, ocr, cid, csd, r6⟩
  refine ⟨t, hexec, honly, ⟨InitAnswers.info ⟨status, busy, ocr, cid, csd, r6⟩ s.session, hsession, ?_, ?_, InitAnswers.info_cardCapacity _ _,
    InitAnswers.info_cardBlockSize _ _⟩, ?_, hperiph ▸ hpower, hperiph ▸ hfifo⟩
  · rw [hsession]
    exact InitAnswers.info_cardType _ _
  · rw [hsession]
    exact InitAnswers.info_rca _ _
  · rw [hperiph]
    exact (hclock.trans (withWidbus_divider hd _)).trans (by cases s.cfg.busWidth <;> rfl)

end Sys2Proof.Machine
